-- ==== Sys2Proof/Word.lean ====
section
/-! DEFINITION. The fixed-width values of the PIC16F8X that the spec treats as bits (rules R3, R20 to R23, R90). -/

namespace Sys2Proof

/-- One 8-bit register value: W, a file register, a literal of format LIT8 (rule R3). -/
abbrev Byte := BitVec 8

/-- A program address, the width of the program counter and of a stack entry (rules R3, R23, R30). -/
abbrev ProgAddr := BitVec 13

/-- One program memory cell: a whole instruction word (rules R60, R90). -/
abbrev ProgWord := BitVec 14

/-- The 7-bit file register designator of an instruction (rules R3, R96). -/
abbrev Designator := BitVec 7

/-- The bit number of a bit-oriented instruction; 0 is the least significant bit (rule R96). -/
abbrev BitIndex := BitVec 3

end Sys2Proof
end

