-- ==== Sys2Proof/Machine/Bits.lean ====
section
/-! DEFINITION. Bit-field helpers over registers (notation of 00_scope.md section 6.1). -/

namespace Sys2Proof.Machine

/-- `v` with bit `i` set to `b`; every other bit as it was. -/
def withBit {n : Nat} (v : BitVec n) (i : Nat) (b : Bool) : BitVec n :=
  if b then v ||| (1#n <<< i) else v &&& ~~~(1#n <<< i)

/-- `v` where `mask` has a 0, `new` where it has a 1. -/
def mergeBits {n : Nat} (mask new v : BitVec n) : BitVec n :=
  (new &&& mask) ||| (v &&& ~~~mask)

/-- `v[3:0] || v[7:4]`, the exchange of the two nibbles (rule R137). -/
def swapNibbles (v : Byte) : Byte := v.extractLsb' 0 4 ++ v.extractLsb' 4 4

/-- The low byte of a program address: what PCL shows (rule R29). -/
def lowByte (a : ProgAddr) : Byte := a.extractLsb' 0 8

end Sys2Proof.Machine
end

