-- ==== Sys2Proof/Config.lean ====
section
/-! DEFINITION. What a device variant fixes (rule R4): the parameters the spec leaves OPEN, and the constants its
decisions give. The OPEN ones are carried as plain data beside the state, so that a statement holds for every part. -/

namespace Sys2Proof.Config

/-- `PROG_WORDS` of rule R4: 512 or 1024 implemented program words (decision D3). -/
inductive ProgSize where
  | words512
  | words1024
deriving DecidableEq, Repr

/-- `GPR_LAST` of rule R4: 0x2F (36 registers) or 0x4F (68 registers), by part (decision D6). -/
inductive GprSize where
  | last2F
  | last4F
deriving DecidableEq, Repr

/-- The OPEN parameters of rule R4: no instruction changes them. -/
structure DeviceParams where
  /-- `PROG_WORDS`. -/
  progSize : ProgSize
  /-- `GPR_LAST`. -/
  gprSize : GprSize
  /-- `WDT_ENABLED`, the watchdog bit of the configuration word (rule R204, decision D21). -/
  wdtEnabled : Bool
deriving DecidableEq, Repr

/-- The number of implemented program words. -/
def DeviceParams.progWords (p : DeviceParams) : Nat :=
  match p.progSize with
  | .words512 => 512
  | .words1024 => 1024

/-- The last general purpose register's designator. -/
def DeviceParams.gprLast (p : DeviceParams) : Nat :=
  match p.gprSize with
  | .last2F => 0x2F
  | .last4F => 0x4F

/-- `GPR_FIRST` of rule R4. -/
def gprFirst : Nat := 0x0C

/-- `STACK_DEPTH` of rule R4 (decision D2). -/
abbrev stackDepth : Nat := 8

/-- Where every reset sends the program counter (rules R194, R220). -/
def resetVector : ProgAddr := 0x0000#13

/-- Where interrupt entry sends the program counter (rules R194, R196). -/
def interruptVector : ProgAddr := 0x0004#13

/-- The instantiation of the spec's test vectors (95_test_vectors.md, conventions): 1024 words, `GPR_LAST` 0x4F,
watchdog off. DESIGN CHOICE (log entry 4): the spec leaves all three OPEN. -/
def defaultParams : DeviceParams :=
  { progSize := .words1024, gprSize := .last4F, wdtEnabled := false }

end Sys2Proof.Config
end

