-- ==== Sys2Proof/Syntax.lean ====
section
/-! DEFINITION. The instruction set: the 37 instructions of rules R99 and R100, each with its operand fields (rule R96).
Don't-care bits are no operands (rule R97). -/

namespace Sys2Proof

/-- The destination select of rule R120(b): `d = 0` is W, `d = 1` is the file register itself. -/
inductive Dest where
  | w
  | file
deriving DecidableEq, Repr

/-- One constructor per instruction. TRIS stands three times in spec/opcode_table.json, once for each value its
operand may have (5, 6, 7); it is one instruction here, with that operand (rule R181). -/
inductive Instr where
  -- byte-oriented file register operations (rules R121 to R138)
  | addwf (f : Designator) (d : Dest)
  | andwf (f : Designator) (d : Dest)
  | clrf (f : Designator)
  | clrw
  | comf (f : Designator) (d : Dest)
  | decf (f : Designator) (d : Dest)
  | decfsz (f : Designator) (d : Dest)
  | incf (f : Designator) (d : Dest)
  | incfsz (f : Designator) (d : Dest)
  | iorwf (f : Designator) (d : Dest)
  | movf (f : Designator) (d : Dest)
  | movwf (f : Designator)
  | nop
  | rlf (f : Designator) (d : Dest)
  | rrf (f : Designator) (d : Dest)
  | subwf (f : Designator) (d : Dest)
  | swapf (f : Designator) (d : Dest)
  | xorwf (f : Designator) (d : Dest)
  -- bit-oriented file register operations (rules R151 to R154)
  | bcf (f : Designator) (b : BitIndex)
  | bsf (f : Designator) (b : BitIndex)
  | btfsc (f : Designator) (b : BitIndex)
  | btfss (f : Designator) (b : BitIndex)
  -- literal and control operations (rules R160 to R172)
  | addlw (k : Byte)
  | andlw (k : Byte)
  | call (k : BitVec 11)
  | clrwdt
  | goto (k : BitVec 11)
  | iorlw (k : Byte)
  | movlw (k : Byte)
  | retfie
  | retlw (k : Byte)
  | ret
  | sleep
  | sublw (k : Byte)
  | xorlw (k : Byte)
  -- the legacy instructions (rules R180, R181)
  | option
  | tris (f : BitVec 3)
deriving DecidableEq, Repr

end Sys2Proof
end

