-- ==== Sys2Proof/WellFormed.lean ====
section
/-! DEFINITION. Which instruction terms are instructions of the hardware. Every operand but TRIS's fills its field, so
the types already say the range (rule R96); TRIS takes 5, 6 or 7 only (rules R102, R181). -/

namespace Sys2Proof

/-- The operand ranges of rule R96 that the operand's type does not already say. -/
def Instr.wellFormed : Instr → Bool
  | .tris f => 5 ≤ f.toNat
  | .addwf .. | .andwf .. | .clrf .. | .clrw | .comf .. | .decf .. | .decfsz .. | .incf .. | .incfsz .. | .iorwf ..
  | .movf .. | .movwf .. | .nop | .rlf .. | .rrf .. | .subwf .. | .swapf .. | .xorwf .. => true
  | .bcf .. | .bsf .. | .btfsc .. | .btfss .. => true
  | .addlw .. | .andlw .. | .call .. | .clrwdt | .goto .. | .iorlw .. | .movlw .. | .retfie | .retlw .. | .ret | .sleep
  | .sublw .. | .xorlw .. => true
  | .option => true

end Sys2Proof
end

