-- ==== Sys2Proof/Decode.lean ====
section
/-! DEFINITION. Decoding (rules R90 to R102) and encoding. `decode` is rule R98's procedure, total on the 16384 words; a
word that rule R101 leaves unassigned is rejected by name. `encode` writes the canonical word of each row of rule R99
(don't-care bits 0, rule R97). -/

namespace Sys2Proof

/-- What the decoder answers: an instruction, or the word itself, rejected as one of rule R101's 372. -/
inductive DecodeResult where
  | instr (i : Instr)
  | unassigned (w : ProgWord)
deriving DecidableEq, Repr

/-- Operand `d` (rule R96): bit 7; 0 is W, 1 is the file register. -/
def destOfBit (d : Bool) : Dest := if d then .file else .w

/-- The bit that `destOfBit` reads. -/
def Dest.bit : Dest → BitVec 1
  | .w => 0#1
  | .file => 1#1

/-- Operand `f` (rule R96): bits 6:0. -/
def fieldF (w : ProgWord) : Designator := w.extractLsb' 0 7

/-- Operand `d` (rule R96): bit 7. -/
def fieldD (w : ProgWord) : Dest := destOfBit (w.getLsbD 7)

/-- Operand `b` (rule R96): bits 9:7. -/
def fieldB (w : ProgWord) : BitIndex := w.extractLsb' 7 3

/-- The 8-bit literal `k` (rule R96): bits 7:0. -/
def fieldK8 (w : ProgWord) : Byte := w.extractLsb' 0 8

/-- The 11-bit literal `k` of CALL and GOTO (rule R96): bits 10:0. -/
def fieldK11 (w : ProgWord) : BitVec 11 := w.extractLsb' 0 11

/-- The words 0x0000 to 0x007F (rule R98, `w[13:8] = 0` and `w[7] = 0`): the fixed encodings, by `w[6:0]`. -/
def decodeFixed (w : ProgWord) : DecodeResult :=
  match (fieldF w).toNat with
  | 0x00 | 0x20 | 0x40 | 0x60 => .instr .nop
  | 0x08 => .instr .ret
  | 0x09 => .instr .retfie
  | 0x62 => .instr .option
  | 0x63 => .instr .sleep
  | 0x64 => .instr .clrwdt
  | 0x65 | 0x66 | 0x67 => .instr (.tris (w.extractLsb' 0 3))
  | _ => .unassigned w

/-- Rule R98, `w[13:12] = 00`: the byte-oriented group, by `w[11:8]`. -/
def decodeByte (w : ProgWord) : DecodeResult :=
  match (w.extractLsb' 8 4).toNat with
  | 0b0000 => if w.getLsbD 7 then .instr (.movwf (fieldF w)) else decodeFixed w
  | 0b0001 => if w.getLsbD 7 then .instr (.clrf (fieldF w)) else .instr .clrw
  | 0b0010 => .instr (.subwf (fieldF w) (fieldD w))
  | 0b0011 => .instr (.decf (fieldF w) (fieldD w))
  | 0b0100 => .instr (.iorwf (fieldF w) (fieldD w))
  | 0b0101 => .instr (.andwf (fieldF w) (fieldD w))
  | 0b0110 => .instr (.xorwf (fieldF w) (fieldD w))
  | 0b0111 => .instr (.addwf (fieldF w) (fieldD w))
  | 0b1000 => .instr (.movf (fieldF w) (fieldD w))
  | 0b1001 => .instr (.comf (fieldF w) (fieldD w))
  | 0b1010 => .instr (.incf (fieldF w) (fieldD w))
  | 0b1011 => .instr (.decfsz (fieldF w) (fieldD w))
  | 0b1100 => .instr (.rrf (fieldF w) (fieldD w))
  | 0b1101 => .instr (.rlf (fieldF w) (fieldD w))
  | 0b1110 => .instr (.swapf (fieldF w) (fieldD w))
  | _ => .instr (.incfsz (fieldF w) (fieldD w))

/-- Rule R98, `w[13:12] = 01`: the bit-oriented group, by `w[11:10]`. -/
def decodeBit (w : ProgWord) : DecodeResult :=
  match (w.extractLsb' 10 2).toNat with
  | 0b00 => .instr (.bcf (fieldF w) (fieldB w))
  | 0b01 => .instr (.bsf (fieldF w) (fieldB w))
  | 0b10 => .instr (.btfsc (fieldF w) (fieldB w))
  | _ => .instr (.btfss (fieldF w) (fieldB w))

/-- Rule R98, `w[13:12] = 11`: the literal group, by `w[11:8]`. -/
def decodeLiteral (w : ProgWord) : DecodeResult :=
  match (w.extractLsb' 8 4).toNat with
  | 0b0000 | 0b0001 | 0b0010 | 0b0011 => .instr (.movlw (fieldK8 w))
  | 0b0100 | 0b0101 | 0b0110 | 0b0111 => .instr (.retlw (fieldK8 w))
  | 0b1000 => .instr (.iorlw (fieldK8 w))
  | 0b1001 => .instr (.andlw (fieldK8 w))
  | 0b1010 => .instr (.xorlw (fieldK8 w))
  | 0b1011 => .unassigned w
  | 0b1100 | 0b1101 => .instr (.sublw (fieldK8 w))
  | _ => .instr (.addlw (fieldK8 w))

/-- The decoding procedure of rule R98, by `w[13:12]`. -/
def decode (w : ProgWord) : DecodeResult :=
  match (w.extractLsb' 12 2).toNat with
  | 0b00 => decodeByte w
  | 0b01 => decodeBit w
  | 0b10 => if w.getLsbD 11 then .instr (.goto (fieldK11 w)) else .instr (.call (fieldK11 w))
  | _ => decodeLiteral w

/-- Format BYTE (rule R91): opcode, `d`, `f`. -/
def formByte (opcode : BitVec 6) (d : BitVec 1) (f : Designator) : ProgWord := opcode ++ d ++ f

/-- Format BIT (rule R92): opcode, `b`, `f`. -/
def formBit (opcode : BitVec 4) (b : BitIndex) (f : Designator) : ProgWord := opcode ++ b ++ f

/-- Format LIT8 (rule R93): opcode (its don't-care bits 0), `k`. -/
def formLit8 (opcode : BitVec 6) (k : Byte) : ProgWord := opcode ++ k

/-- Format LIT11 (rule R94): opcode, `k`. -/
def formLit11 (opcode : BitVec 3) (k : BitVec 11) : ProgWord := opcode ++ k

/-- The canonical word of an instruction (rules R97, R99). -/
def encode : Instr → ProgWord
  | .addwf f d => formByte 0b000111#6 d.bit f
  | .andwf f d => formByte 0b000101#6 d.bit f
  | .clrf f => formByte 0b000001#6 1#1 f
  | .clrw => formByte 0b000001#6 0#1 0#7
  | .comf f d => formByte 0b001001#6 d.bit f
  | .decf f d => formByte 0b000011#6 d.bit f
  | .decfsz f d => formByte 0b001011#6 d.bit f
  | .incf f d => formByte 0b001010#6 d.bit f
  | .incfsz f d => formByte 0b001111#6 d.bit f
  | .iorwf f d => formByte 0b000100#6 d.bit f
  | .movf f d => formByte 0b001000#6 d.bit f
  | .movwf f => formByte 0b000000#6 1#1 f
  | .nop => 0x0000#14
  | .rlf f d => formByte 0b001101#6 d.bit f
  | .rrf f d => formByte 0b001100#6 d.bit f
  | .subwf f d => formByte 0b000010#6 d.bit f
  | .swapf f d => formByte 0b001110#6 d.bit f
  | .xorwf f d => formByte 0b000110#6 d.bit f
  | .bcf f b => formBit 0b0100#4 b f
  | .bsf f b => formBit 0b0101#4 b f
  | .btfsc f b => formBit 0b0110#4 b f
  | .btfss f b => formBit 0b0111#4 b f
  | .addlw k => formLit8 0b111110#6 k
  | .andlw k => formLit8 0b111001#6 k
  | .call k => formLit11 0b100#3 k
  | .clrwdt => 0x0064#14
  | .goto k => formLit11 0b101#3 k
  | .iorlw k => formLit8 0b111000#6 k
  | .movlw k => formLit8 0b110000#6 k
  | .retfie => 0x0009#14
  | .retlw k => formLit8 0b110100#6 k
  | .ret => 0x0008#14
  | .sleep => 0x0063#14
  | .sublw k => formLit8 0b111100#6 k
  | .xorlw k => formLit8 0b111010#6 k
  | .option => 0x0062#14
  | .tris f => 0b00000001100#11 ++ f

/-- The bits of an instruction's word that matter: all but rule R97's `x` positions (CLRW bits 6:0, NOP 6:5, MOVLW and
RETLW 9:8, ADDLW and SUBLW 8). -/
def careMask : Instr → ProgWord
  | .clrw => 0x3F80#14
  | .nop => 0x3F9F#14
  | .movlw _ | .retlw _ => 0x3CFF#14
  | .addlw _ | .sublw _ => 0x3EFF#14
  | .addwf .. | .andwf .. | .clrf .. | .comf .. | .decf .. | .decfsz .. | .incf .. | .incfsz .. | .iorwf .. => 0x3FFF#14
  | .movf .. | .movwf .. | .rlf .. | .rrf .. | .subwf .. | .swapf .. | .xorwf .. => 0x3FFF#14
  | .bcf .. | .bsf .. | .btfsc .. | .btfss .. => 0x3FFF#14
  | .andlw .. | .call .. | .clrwdt | .goto .. | .iorlw .. | .retfie | .ret | .sleep | .xorlw .. => 0x3FFF#14
  | .option | .tris .. => 0x3FFF#14

/-- The instruction the decoder reads from a row's bits. A program word is 14 bits stored as a unit (rules R60, R69), so
the word is the number itself; a number that does not fit 14 bits is no word. `_nbits` is the row's width in whole
bytes and says nothing more. -/
def decodeTableWord (_nbits w : Nat) : Option Instr :=
  if w < 2 ^ 14 then
    match decode (BitVec.ofNat 14 w) with
    | .instr i => some i
    | .unassigned _ => none
  else none

end Sys2Proof
end

