-- ==== Sys2Proof/Machine/State.lean ====
section
/-! DEFINITION. The machine's state as plain data, the reasons a step can stop, and the state after a power-on reset
(rule R50). INVENTORY.md, '## State', gives every field with the rule that names it. -/

namespace Sys2Proof.Machine

/-- General purpose register contents: (designator, byte) pairs in the canonical form `Memory.wf`. -/
abbrev Memory := List Host.Cell

/-- Program memory contents: (word address, word) pairs in the canonical form `Program.wf` (rule R60). -/
abbrev Program := List (Nat × ProgWord)

/-- The cells that hold no definite value after a power-on reset (the `x` of rule R50), as the environment supplies
them (93_implementation_defined.md section 2: 'environment (draw)'). The defaults are State.reset's (log entry 1). -/
structure PowerOnCells where
  w : Byte := 0#8
  z : Bool := false
  dc : Bool := false
  c : Bool := false
  rbif : Bool := false
  fsr : Byte := 0#8
  tmr0 : Byte := 0#8
  latchA : BitVec 5 := 0#5
  latchB : Byte := 0#8
  eedata : Byte := 0#8
  eeadr : Byte := 0#8
  /-- EECON1 bit 3, the one `x` of `---0 x000`. -/
  eecon1Bit3 : Bool := false
  /-- General purpose registers; one that is not listed holds what an unlisted address reads as. -/
  gpr : List Host.Cell := []
  /-- The raw bits of the stack's slots; rule R50 has 'x (no value)', and no pop reads them before a push (rule R32). -/
  stack : Vector ProgAddr Config.stackDepth := Vector.replicate Config.stackDepth 0#13
deriving DecidableEq, Repr

/-- A reset or time-out arriving at an instruction boundary (rules R193, R204, R205, R220). `q` is the value that
EECON1 bit 3 takes, the `q` of rule R50's table (an interrupted EEPROM write, a device that is out of scope). -/
inductive LineEvent where
  | powerOn (cells : PowerOnCells)
  | mclr (q : Bool)
  | watchdog (q : Bool)
deriving DecidableEq, Repr

/-- One move of the environment between two instructions (rule R68): the default is a move that changes nothing.
`none` leaves a cell as it is, `false` leaves an interrupt flag as it is (a flag is set by its source, never cleared). -/
structure EnvMove where
  /-- A new TMR0 value (Timer0 counts; rules R68, R207). -/
  tmr0 : Option Byte := none
  /-- Timer0 overflows: INTCON bit 2 is set. -/
  setT0if : Bool := false
  /-- The selected edge arrives on RB0/INT: INTCON bit 1 is set. -/
  setIntf : Bool := false
  /-- A change on RB7:RB4: INTCON bit 0 is set. -/
  setRbif : Bool := false
  /-- The levels the outside world presents on the pins of PORTA and PORTB. -/
  extA : Option (BitVec 5) := none
  extB : Option Byte := none
  /-- Which output pins an external load overdrives (rule R66). -/
  loadA : Option (BitVec 5) := none
  loadB : Option Byte := none
  /-- The data EEPROM device changes its registers (rule R68, out-of-scope device). -/
  eedata : Option Byte := none
  eeadr : Option Byte := none
  eecon1 : Option (BitVec 5) := none
  /-- The watchdog and the prescaler count (rule R204). -/
  wdt : Option Byte := none
  psc : Option Byte := none
  /-- A reset or a watchdog time-out. -/
  event : Option LineEvent := none
deriving DecidableEq, Repr

/-- The architectural state (10_state.md), the environment's side of the pins, and the model's own fields. -/
structure State where
  /-- The working register (rule R20). -/
  w : Byte
  /-- The program counter: the address of the instruction to execute (rules R23, R24). -/
  pc : ProgAddr
  /-- PCLATH, its five implemented bits (rule R25). -/
  pclath : BitVec 5
  /-- STATUS: IRP RP1 RP0 TO PD Z DC C (rule R45). -/
  status : Byte
  /-- FSR, the pointer of indirect addressing (rules R22, R62). -/
  fsr : Byte
  /-- INTCON: GIE EEIE T0IE INTE RBIE T0IF INTF RBIF (rules R40, R47). -/
  intcon : Byte
  /-- The OPTION register (rules R42, R48). -/
  optionReg : Byte
  /-- TRIS[5], the direction register of PORTA, its five implemented bits (rule R43). -/
  trisA : BitVec 5
  /-- TRIS[6], the direction register of PORTB (rule R43). -/
  trisB : Byte
  /-- The data latch of PORTA, five bits (rules R49(d), R66). -/
  latchA : BitVec 5
  /-- The data latch of PORTB (rules R49(d), R66). -/
  latchB : Byte
  /-- TMR0 (rules R22, R67). -/
  tmr0 : Byte
  /-- The data EEPROM's registers (rules R50, R63). -/
  eedata : Byte
  eeadr : Byte
  /-- EECON1, its five implemented bits; bit 4 is EEIF (rules R63, R193). -/
  eecon1 : BitVec 5
  /-- The general purpose registers (rule R63). -/
  gpr : Memory
  /-- The return stack's slots (rules R30 to R32). -/
  stack : Vector ProgAddr Config.stackDepth
  /-- Bit `n`: slot `n` holds a value written since the last reset, which rule R32 asks of a slot that is popped. -/
  stackWritten : BitVec 8
  /-- The stack pointer: the slot the next push writes (rule R49(b)). -/
  sp : BitVec 3
  /-- The Watchdog Timer's count (rule R41). -/
  wdt : Byte
  /-- The count of the prescaler (rule R41). -/
  psc : Byte
  /-- SLEEPING (rule R44). -/
  sleeping : Bool
  /-- The levels the outside world presents on the pins (rule R66): the environment's, not a register. -/
  extA : BitVec 5
  extB : Byte
  /-- Which output pins an external load overdrives (rule R66): the environment's, not a register. -/
  loadA : BitVec 5
  loadB : Byte
  /-- The program loaded from outside; no instruction writes it (rules R60, R61, R222). -/
  prog : Program
  /-- The device variant (rule R4); nothing changes it. -/
  params : Config.DeviceParams
  /-- The MODEL's own: the moves the environment will make, one at each instruction boundary (rule R68). -/
  env : List EnvMove
  /-- The MODEL's own: the core has just been woken by an interrupt source, so the instruction after SLEEP, already
  fetched, runs before any interrupt entry (rule R206). -/
  afterWake : Bool
  /-- The MODEL's own: instruction cycles spent on instructions so far (rule R232; timing only). -/
  cycles : Nat
deriving DecidableEq, Repr

/-- The hardware has no synchronous exception and reports no error (rule R190; 93_implementation_defined.md section 1:
'No behaviour of this hardware has the treatment fault'), so there is no fault to name: the type is empty, which is
safe, since a step that never faults promises only what rule R190 says. -/
inductive Fault where
deriving DecidableEq, Repr

/-- The model-level refusals of rule R191. Each is SAFE: the run stops where the spec gives the situation no meaning. -/
inductive Refusal where
  /-- An instruction without a meaning yet; raised by `exec`'s arm alone. Safe. -/
  | notModelled (mnemonic : String)
  /-- The fetched program word was never given a value (rule R60); raised by the fetch. Safe. -/
  | fetchUndefined
  /-- The fetched word is one of the 372 unassigned words (rule R101); raised by the step. Safe. -/
  | unassignedOpcode (w : ProgWord)
  /-- A pop of a stack slot never written since reset (rule R32); raised by RETURN, RETLW and RETFIE. Safe. -/
  | stackUnderflow
  /-- DECFSZ or INCFSZ with the program counter as destination (rule R29); raised by these two. Safe. -/
  | skipOnPcl
  /-- TRIS names no register of this device (rule R181); raised by TRIS with operand 7. Safe. -/
  | trisNoSuchPort
  /-- SLEEP while an enabled interrupt is pending (rule R206); raised by SLEEP. Safe. -/
  | sleepWithPending
deriving DecidableEq, Repr

/-- A step's outcome on this machine. -/
abbrev Result := Host.Outcome State Fault Refusal

/-- The machine right after a power-on reset: the values of rule R50's first column. A cell that the table leaves `x`
holds zero (DESIGN CHOICE, log entry 1); the environment is quiet and no program is loaded (log entries 2, 3). -/
def State.reset : State where
  w := 0x00#8
  pc := Config.resetVector
  pclath := 0#5
  status := 0b00011000#8
  fsr := 0x00#8
  intcon := 0x00#8
  optionReg := 0xFF#8
  trisA := 0b11111#5
  trisB := 0xFF#8
  latchA := 0#5
  latchB := 0x00#8
  tmr0 := 0x00#8
  eedata := 0x00#8
  eeadr := 0x00#8
  eecon1 := 0#5
  gpr := []
  stack := Vector.replicate Config.stackDepth 0#13
  stackWritten := 0#8
  sp := 0#3
  wdt := 0x00#8
  psc := 0x00#8
  sleeping := false
  extA := 0#5
  extB := 0x00#8
  loadA := 0#5
  loadB := 0x00#8
  prog := []
  params := Config.defaultParams
  env := []
  afterWake := false
  cycles := 0

end Sys2Proof.Machine
end

