-- ==== Sys2Proof/Machine/Flags.lean ====
section
/-! DEFINITION. The status bits (rules R34 to R39, R45) and the arithmetic helpers that compute them (rules R139, R140). -/

namespace Sys2Proof.Machine

/-- The carry flag, STATUS bit 0 (rules R35, R45). -/
def State.flagC (s : State) : Bool := s.status.getLsbD 0

/-- The digit carry flag, STATUS bit 1 (rules R36, R45). -/
def State.flagDC (s : State) : Bool := s.status.getLsbD 1

/-- The zero flag, STATUS bit 2 (rules R34, R45). -/
def State.flagZ (s : State) : Bool := s.status.getLsbD 2

/-- The power-down bit, STATUS bit 3 (rules R38, R45). -/
def State.flagPD (s : State) : Bool := s.status.getLsbD 3

/-- The time-out bit, STATUS bit 4 (rules R37, R45). -/
def State.flagTO (s : State) : Bool := s.status.getLsbD 4

/-- The bank select of direct addressing, STATUS bit 5 (rules R45, R62). -/
def State.rp0 (s : State) : Bool := s.status.getLsbD 5

/-- Which of C, DC, Z an instruction lists under "Status Affected", with their values; `none` leaves the flag (rule
R39). -/
structure FlagUpdate where
  c : Option Bool := none
  dc : Option Bool := none
  z : Option Bool := none
deriving DecidableEq, Repr

/-- Whether the instruction lists any of C, DC, Z (what rule R46 distinguishes). -/
def FlagUpdate.affectsAny (u : FlagUpdate) : Bool := u.c.isSome || u.dc.isSome || u.z.isSome

/-- `v` with bit `i` at the listed value, if there is one. -/
def updateBit (v : Byte) (i : Nat) (b : Option Bool) : Byte :=
  match b with
  | some x => withBit v i x
  | none => v

/-- Writes the listed flags into STATUS and nothing else (rule R120(d)). -/
def State.setFlags (s : State) (u : FlagUpdate) : State :=
  { s with status := updateBit (updateBit (updateBit s.status 0 u.c) 1 u.dc) 2 u.z }

/-- Sets TO and PD, which no file register write reaches (rules R37, R38). -/
def State.setTOPD (s : State) (timeOut powerDown : Bool) : State :=
  { s with status := withBit (withBit s.status 4 timeOut) 3 powerDown }

/-- An 8-bit result with the flags it sets. -/
structure AluResult where
  value : Byte
  flags : FlagUpdate := {}
deriving DecidableEq, Repr

/-- `sum9` of rule R139. -/
def sum9 (a b : Byte) : BitVec 9 := a.setWidth 9 + b.setWidth 9

/-- `zext_5(a[3:0]) + zext_5(b[3:0])` of rule R139. -/
def nibbleSum5 (a b : Byte) : BitVec 5 := (a.extractLsb' 0 4).setWidth 5 + (b.extractLsb' 0 4).setWidth 5

/-- `add8(a, b)` of rule R139. -/
def add8 (a b : Byte) : AluResult :=
  let r := (sum9 a b).extractLsb' 0 8
  { value := r
    flags := { c := some ((sum9 a b).getLsbD 8), dc := some ((nibbleSum5 a b).getLsbD 4), z := some (r == 0#8) } }

/-- `dif9` of rule R139: `a - b` by the "2's complement method". -/
def dif9 (a b : Byte) : BitVec 9 := a.setWidth 9 + (~~~b).setWidth 9 + 1#9

/-- `sub8(a, b)` of rule R139; C and DC are 1 when there is no borrow. -/
def sub8 (a b : Byte) : AluResult :=
  let r := (dif9 a b).extractLsb' 0 8
  { value := r
    flags := { c := some ((dif9 a b).getLsbD 8)
               dc := some ((nibbleSum5 a (~~~b) + 1#5).getLsbD 4)
               z := some (r == 0#8) } }

/-- A result of which only Z is listed (rule R34). -/
def resultZ (r : Byte) : AluResult := { value := r, flags := { z := some (r == 0#8) } }

/-- A result that affects no flag. -/
def resultOnly (r : Byte) : AluResult := { value := r }

/-- `r = v[6:0] || C`, `C <- v[7]` (rule R134). -/
def rotateLeft (c : Bool) (v : Byte) : AluResult :=
  { value := v.extractLsb' 0 7 ++ BitVec.ofBool c, flags := { c := some (v.getLsbD 7) } }

/-- `r = C || v[7:1]`, `C <- v[0]` (rule R135). -/
def rotateRight (c : Bool) (v : Byte) : AluResult :=
  { value := BitVec.ofBool c ++ v.extractLsb' 1 7, flags := { c := some (v.getLsbD 0) } }

/-- STATUS after the byte `v` is written to it as a file register (rule R46): TO and PD keep their values; an
instruction that lists C, DC or Z writes bits 7:5 only from the byte. -/
def statusWritten (flagAffecting : Bool) (old v : Byte) : Byte :=
  mergeBits (if flagAffecting then 0b11100000#8 else 0b11100111#8) v old

end Sys2Proof.Machine
end

