-- ==== Sys2Proof/Machine/Memory.lean ====
section
/-! DEFINITION. The two memories: general purpose registers (rules R63 to R65) and program words (rules R60, R61). Each
is a list in ONE canonical form, so that equal contents are equal data. -/

namespace Sys2Proof.Machine

/-- What a general purpose register that nothing has written reads as. DESIGN CHOICE (log entry 1): the spec gives
none (rule R50, `x`). -/
def gprDefault : Byte := 0x00#8

/-- The byte of register `n`. -/
def Memory.read : Memory → Nat → Byte
  | [], _ => gprDefault
  | (a, v) :: m, n => if a = n then v else Memory.read m n

/-- `m` without an entry for register `n`. -/
def Memory.erase (m : Memory) (n : Nat) : Memory := m.filter fun c => c.1 != n

/-- `m`, which has no entry for `n`, with the entry `(n, v)` at its place in the rising order. -/
def Memory.insert : Memory → Nat → Byte → Memory
  | [], n, v => [(n, v)]
  | (a, u) :: m, n, v => if n < a then (n, v) :: (a, u) :: m else (a, u) :: Memory.insert m n v

/-- `m` with register `n` holding `v`; writing what an unlisted register reads as leaves no entry. -/
def Memory.write (m : Memory) (n : Nat) (v : Byte) : Memory :=
  if v = gprDefault then m.erase n else (m.erase n).insert n v

/-- Every address of `m` is above `n`. -/
def Memory.above (n : Nat) (m : Memory) : Bool := m.all fun c => n < c.1

/-- The canonical form: addresses strictly rising, and no entry equal to what an unlisted register reads as. -/
def Memory.wf : Memory → Bool
  | [] => true
  | (a, v) :: m => v != gprDefault && Memory.above a m && Memory.wf m

/-- Every listed register lies in the implemented range (rule R63). -/
def Memory.inRange (p : Config.DeviceParams) (m : Memory) : Bool :=
  m.all fun c => Config.gprFirst ≤ c.1 && c.1 ≤ p.gprLast

/-- `ProgRead` before aliasing (rule R60): the word at index `n`, or none if the loader gave it no value. -/
def Program.read : Program → Nat → Option ProgWord
  | [], _ => none
  | (a, w) :: m, n => if a = n then some w else Program.read m n

/-- `m`, which has no word at index `n`, with the entry `(n, w)` at its place in the rising order. -/
def Program.insert : Program → Nat → ProgWord → Program
  | [], n, w => [(n, w)]
  | (a, u) :: m, n, w => if n < a then (n, w) :: (a, u) :: m else (a, u) :: Program.insert m n w

/-- `m` with the word at index `n` loaded as `w` (rule R222: what the programmer outside the device does). -/
def Program.store (m : Program) (n : Nat) (w : ProgWord) : Program :=
  Program.insert (m.filter fun c => c.1 != n) n w

/-- The canonical form of program memory: addresses strictly rising. -/
def Program.wf : Program → Bool
  | [] => true
  | (a, _) :: m => m.all (fun c => a < c.1) && Program.wf m

/-- Every loaded word lies in the implemented range. -/
def Program.inRange (p : Config.DeviceParams) (m : Program) : Bool :=
  m.all fun c => c.1 < p.progWords

/-- Which word a program address selects: only the low `PC_EFFECTIVE_BITS` bits count, and `PROG_WORDS` is a power of
two, so the implemented words repeat through the 8192 addresses (rules R26, R60, R73). -/
def progIndex (p : Config.DeviceParams) (a : ProgAddr) : Nat := a.toNat % p.progWords

/-- `ProgRead(a)` of rule R60. -/
def State.progRead (s : State) (a : ProgAddr) : Option ProgWord := Program.read s.prog (progIndex s.params a)

end Sys2Proof.Machine
end

