-- ==== Sys2Proof/Machine/Operands.lean ====
section
/-! DEFINITION. Operand access: the effective data address (rule R62), the data memory map (rule R63), `MemRead` and
`MemWrite` (rules R64 to R67), and the destination of a result (rule R120). -/

namespace Sys2Proof.Machine

/-- What stands at a data address (rule R63). -/
inductive FileReg where
  | indf
  | tmr0
  | optionReg
  | pcl
  | status
  | fsr
  | portA
  | trisA
  | portB
  | trisB
  | eedata
  | eeadr
  | eecon1
  | eecon2
  | pclath
  | intcon
  | gpr (n : Nat)
  | unimplemented
deriving DecidableEq, Repr

/-- The data memory map of rule R63: bit 7 of the address is the bank, bits 6:0 the designator. The general purpose
registers of bank 1 are those of bank 0. -/
def fileMap (p : Config.DeviceParams) (a : Byte) : FileReg :=
  let bank1 := a.getLsbD 7
  match (a.extractLsb' 0 7).toNat with
  | 0x00 => .indf
  | 0x01 => if bank1 then .optionReg else .tmr0
  | 0x02 => .pcl
  | 0x03 => .status
  | 0x04 => .fsr
  | 0x05 => if bank1 then .trisA else .portA
  | 0x06 => if bank1 then .trisB else .portB
  | 0x07 => .unimplemented
  | 0x08 => if bank1 then .eecon1 else .eedata
  | 0x09 => if bank1 then .eecon2 else .eeadr
  | 0x0A => .pclath
  | 0x0B => .intcon
  | n => if Config.gprFirst ≤ n ∧ n ≤ p.gprLast then .gpr n else .unimplemented

/-- `EA(f)` of rule R62: designator 0 is indirect through FSR; any other is `RP0 || f`. IRP and RP1 are ignored. -/
def State.ea (s : State) (f : Designator) : Byte :=
  if f = 0#7 then s.fsr else BitVec.ofBool s.rp0 ++ f

/-- The register a designator reaches in this state. -/
def State.fileReg (s : State) (f : Designator) : FileReg := fileMap s.params (s.ea f)

/-- The level of PORTA's pins (rule R66): an input pin, and an output pin under external load, shows the outside
level; any other output pin shows its latch bit. -/
def State.pinsA (s : State) : BitVec 5 := mergeBits (s.trisA ||| s.loadA) s.extA s.latchA

/-- The level of PORTB's pins (rule R66). -/
def State.pinsB (s : State) : Byte := mergeBits (s.trisB ||| s.loadB) s.extB s.latchB

/-- `MemRead(a, 1)` (rule R64), `s.pc` being the address of the instruction that reads. Unimplemented bits and
addresses read 0 (rule R63). -/
def State.memRead (s : State) (a : Byte) : Byte :=
  match fileMap s.params a with
  | .indf => 0x00#8
  | .tmr0 => s.tmr0
  | .optionReg => s.optionReg
  | .pcl => lowByte (s.pc + 1#13)
  | .status => s.status
  | .fsr => s.fsr
  | .portA => s.pinsA.setWidth 8
  | .trisA => s.trisA.setWidth 8
  | .portB => s.pinsB
  | .trisB => s.trisB
  | .eedata => s.eedata
  | .eeadr => s.eeadr
  | .eecon1 => s.eecon1.setWidth 8
  | .eecon2 => 0x00#8
  | .pclath => s.pclath.setWidth 8
  | .intcon => s.intcon
  | .gpr n => Memory.read s.gpr n
  | .unimplemented => 0x00#8

/-- One instruction cycle passes and the program counter moves to the next word (rules R26, R230). -/
def State.advance (s : State) : State := { s with pc := s.pc + 1#13, cycles := s.cycles + 1 }

/-- The program counter is changed to `a`: the prefetched word is discarded and a second cycle passes (rules R77,
R231). -/
def State.jump (s : State) (a : ProgAddr) : State := { s with pc := a, cycles := s.cycles + 1 }

/-- The next instruction is discarded (rule R27); `s.pc` is already its address. -/
def State.skip (s : State) : State := s.jump (s.pc + 1#13)

/-- OPTION_REG bit 3, PSA: the prescaler belongs to the Watchdog Timer (rules R41, R48). -/
def State.prescalerOnWdt (s : State) : Bool := s.optionReg.getLsbD 3

/-- A write of the OPTION register (rule R42). -/
def State.setOption (s : State) (v : Byte) : State := { s with optionReg := v }

/-- A write of TRIS[5], of which bits 4:0 are implemented (rules R43, R181). -/
def State.setTrisA (s : State) (v : Byte) : State := { s with trisA := v.setWidth 5 }

/-- A write of TRIS[6] (rules R43, R181). -/
def State.setTrisB (s : State) (v : Byte) : State := { s with trisB := v }

/-- A write of TMR0, which clears the prescaler if it is assigned to Timer0 (rule R67, Note 2). -/
def State.writeTmr0 (s : State) (v : Byte) : State :=
  { s with tmr0 := v, psc := if s.prescalerOnWdt then s.psc else 0x00#8 }

/-- `MemWrite(a, 1, v)` (rule R65) by an instruction that does, or does not, list C, DC or Z (rule R46). `s` is the
state in which the program counter has already moved to the next word; a write of PCL then jumps (rule R29). -/
def State.memWrite (s : State) (flagAffecting : Bool) (a v : Byte) : State :=
  match fileMap s.params a with
  | .indf => s
  | .tmr0 => s.writeTmr0 v
  | .optionReg => s.setOption v
  | .pcl => s.jump (s.pclath ++ v)
  | .status => { s with status := statusWritten flagAffecting s.status v }
  | .fsr => { s with fsr := v }
  | .portA => { s with latchA := v.setWidth 5 }
  | .trisA => s.setTrisA v
  | .portB => { s with latchB := v }
  | .trisB => s.setTrisB v
  | .eedata => { s with eedata := v }
  | .eeadr => { s with eeadr := v }
  | .eecon1 => { s with eecon1 := v.setWidth 5 }
  | .eecon2 => s
  | .pclath => { s with pclath := v.setWidth 5 }
  | .intcon => { s with intcon := v }
  | .gpr n => { s with gpr := Memory.write s.gpr n v }
  | .unimplemented => s

/-- W written. -/
def State.setW (s : State) (v : Byte) : State := { s with w := v }

/-- The end of an instruction that delivers a result: the program counter moves on, the result goes to W or to the
file register at `a`, and the listed flags are written (rule R120). -/
def State.deliver (s : State) (d : Dest) (a : Byte) (r : AluResult) : State :=
  match d with
  | .w => (s.advance.setW r.value).setFlags r.flags
  | .file => (s.advance.memWrite r.flags.affectsAny a r.value).setFlags r.flags

/-- The order within a byte-oriented instruction (rule R120(c)): the address is formed once, the operand is read, the
result computed, the destination and the flags written. -/
def State.byteOp (s : State) (f : Designator) (d : Dest) (op : Byte → AluResult) : State :=
  s.deliver d (s.ea f) (op (s.memRead (s.ea f)))

/-- A literal operation: the result goes to W (42_literal_control.md). -/
def State.literalOp (s : State) (r : AluResult) : State :=
  (s.advance.setW r.value).setFlags r.flags

end Sys2Proof.Machine
end

