-- ==== Sys2Proof/Machine/Ops.lean ====
section
/-! DEFINITION. The shared operations beside operand access: the return stack (rules R30 to R33), skips (rule R27), the
watchdog and sleep (rules R41, R44, R204, R206), INTERRUPT ENTRY and the return from it (rules R195 to R200, R203), resets
(rules R50, R220) and the environment's moves (rule R68). -/

namespace Sys2Proof.Machine

/-! ## The return stack -/

/-- `Push(v)` (rule R31): the slot the pointer names takes `v`; after eight live entries that slot is the oldest one,
which is lost without a sign. -/
def State.push (s : State) (v : ProgAddr) : State :=
  { s with
    stack := s.stack.set s.sp.toNat v s.sp.isLt
    stackWritten := withBit s.stackWritten s.sp.toNat true
    sp := s.sp + 1#3 }

/-- The top of stack, TOS: the slot below the pointer (rule R30). -/
def State.tos (s : State) : ProgAddr := s.stack[(s.sp - 1#3).toNat]'((s.sp - 1#3).isLt)

/-- The `k`-th entry below the top of stack; entry 0 is the top (rule R31: every older entry one place down). -/
def State.stackEntry (s : State) (k : Nat) : ProgAddr :=
  s.stack[(s.sp - 1#3 - BitVec.ofNat 3 k).toNat]'((s.sp - 1#3 - BitVec.ofNat 3 k).isLt)

/-- Whether the top of stack holds a value written since the last reset (rule R32). -/
def State.tosWritten (s : State) : Bool := s.stackWritten.getLsbD (s.sp - 1#3).toNat

/-- `s` with the top entry removed: the pointer moves back and the slot keeps what it holds (rule R32). -/
def State.dropTop (s : State) : State := { s with sp := s.sp - 1#3 }

/-- `pc <- Pop()` (rule R32), in two cycles (rule R232); a slot that holds no value written since reset is refused. -/
def State.popToPc (s : State) : Result :=
  if s.tosWritten then .next (s.advance.dropTop.jump s.tos) else .refused .stackUnderflow

/-- No slot with a value and the pointer at its start: the empty stack of rules R50 and R220; this leaves the slots' bits
(the `u` of rule R50; a power-on reset replaces them). -/
def State.emptyStack (s : State) : State := { s with stackWritten := 0#8, sp := 0#3 }

/-! ## Skips and jumps -/

/-- The end of a skip instruction: the next instruction is discarded when the condition holds (rule R27). -/
def State.skipIf (s : State) (c : Bool) : State := if c then s.skip else s

/-- The target of CALL and GOTO: `PCLATH[4:3] || k` (rules R162, R164). -/
def State.pageTarget (s : State) (k : BitVec 11) : ProgAddr := s.pclath.extractLsb' 3 2 ++ k

/-! ## The watchdog and sleep -/

/-- `00h → WDT, 0 → WDT prescaler` (rules R163, R170): the prescaler's count is cleared when it is assigned to the
Watchdog Timer (rule R41, decision D21). -/
def State.clearWatchdog (s : State) : State :=
  { s with wdt := 0x00#8, psc := if s.prescalerOnWdt then 0x00#8 else s.psc }

/-- The processor is put into SLEEP mode (rules R44, R170). -/
def State.fallAsleep (s : State) : State := { s with sleeping := true }

/-! ## Interrupts: requests, entry, return -/

/-- INTF & INTE (rule R195). -/
def State.intPending (s : State) : Bool := s.intcon.getLsbD 1 && s.intcon.getLsbD 4

/-- T0IF & T0IE (rule R195). -/
def State.timerPending (s : State) : Bool := s.intcon.getLsbD 2 && s.intcon.getLsbD 5

/-- RBIF & RBIE (rule R195). -/
def State.portPending (s : State) : Bool := s.intcon.getLsbD 0 && s.intcon.getLsbD 3

/-- EEIF & EEIE (rule R195). -/
def State.eepromPending (s : State) : Bool := s.eecon1.getLsbD 4 && s.intcon.getLsbD 6

/-- `pending` of rule R195. -/
def State.pending (s : State) : Bool := s.intPending || s.timerPending || s.portPending || s.eepromPending

/-- The global interrupt enable bit, INTCON bit 7 (rule R40). -/
def State.gie (s : State) : Bool := s.intcon.getLsbD 7

/-- GIE set or cleared, the rest of INTCON as it was. -/
def State.setGie (s : State) (b : Bool) : State := { s with intcon := withBit s.intcon 7 b }

/-- `request = GIE & pending` (rule R195). -/
def State.request (s : State) : Bool := s.gie && s.pending

/-- TAKING THE EXCEPTION: interrupt entry (rule R196). The address of the instruction that would have run next is
pushed, GIE is cleared, and the program counter goes to 0x0004; nothing else changes. -/
def State.takeInterrupt (s : State) : State :=
  { (s.push s.pc).setGie false with pc := Config.interruptVector }

/-- THE RETURN FROM IT: `GIE <- 1; pc <- Pop()` (rules R167, R199, R203). -/
def State.returnFromInterrupt (s : State) : Result := (s.setGie true).popToPc

/-- The sources that end SLEEP: INT, RB change and EEPROM write, flag and enable both 1, whatever GIE is; Timer0 is
stopped and cannot (rule R206). -/
def State.wakePending (s : State) : Bool := s.intPending || s.portPending || s.eepromPending

/-- Wake-up by an interrupt source (rule R206): execution goes on at `pc`, and the instruction there, already fetched,
runs before any entry. -/
def State.wakeByInterrupt (s : State) : State := { s with sleeping := false, afterWake := true }

/-- The instruction after SLEEP is about to run, so nothing holds an interrupt back any longer (rule R206). -/
def State.endWake (s : State) : State := { s with afterWake := false }

/-- Wake-up by a watchdog time-out (rules R204, R206): `SLEEPING <- 0; TO <- 0`, PD as SLEEP left it, no reset. -/
def State.wakeByWatchdog (s : State) : State :=
  { s with sleeping := false, afterWake := s.wakePending, status := withBit s.status 4 false }

/-! ## Resets -/

/-- What every cause of reset does alike (rule R220 and the rows of rule R50's table that do not depend on the cause). -/
def State.resetCommon (s : State) : State :=
  { s.emptyStack with
    pc := Config.resetVector
    pclath := 0#5
    sleeping := false
    afterWake := false
    wdt := 0x00#8
    psc := 0x00#8
    optionReg := 0xFF#8
    trisA := 0b11111#5
    trisB := 0xFF#8 }

/-- STATUS after a reset: bits 7:5 clear, TO and PD as the cause says, and the given bits 2:0 (rule R50). -/
def resetStatus (timeOut powerDown : Bool) (zdcc : BitVec 3) : Byte :=
  0b000#3 ++ BitVec.ofBool timeOut ++ BitVec.ofBool powerDown ++ zdcc

/-- INTCON after a reset: every bit clear but RBIF (rule R50). -/
def resetIntcon (rbif : Bool) : Byte := 0#7 ++ BitVec.ofBool rbif

/-- EECON1 after a reset: `---0 q000` (rule R50). -/
def resetEecon1 (q : Bool) : BitVec 5 := 0#1 ++ BitVec.ofBool q ++ 0#3

/-- The general purpose registers that a list of cells fills after power-on; a cell outside the implemented range has
no register to fill. -/
def powerOnGpr (p : Config.DeviceParams) (cells : List Host.Cell) : Memory :=
  cells.foldl (fun m c => if Config.gprFirst ≤ c.1 ∧ c.1 ≤ p.gprLast then Memory.write m c.1 c.2 else m) []

/-- Power-on reset (rules R50, R220), with the values the environment supplies for the `x` cells. DESIGN CHOICE (log entry
1): the stack's slots, 'x (no value)' in rule R50, are such cells: they hold bits, any bits, which no pop reads before a push
(`stackWritten` is 0). -/
def State.powerOnReset (s : State) (x : PowerOnCells) : State :=
  { s.resetCommon with
    w := x.w
    status := resetStatus true true (BitVec.ofBool x.z ++ BitVec.ofBool x.dc ++ BitVec.ofBool x.c)
    intcon := resetIntcon x.rbif
    fsr := x.fsr
    tmr0 := x.tmr0
    latchA := x.latchA
    latchB := x.latchB
    eedata := x.eedata
    eeadr := x.eeadr
    eecon1 := resetEecon1 x.eecon1Bit3
    gpr := powerOnGpr s.params x.gpr
    stack := x.stack }

/-- MCLR reset (rules R50, R205, R220): while running TO and PD stay, while sleeping they are 1 and 0. -/
def State.mclrReset (s : State) (q : Bool) : State :=
  { s.resetCommon with
    status :=
      resetStatus (s.sleeping || s.flagTO) (!s.sleeping && s.flagPD) (s.status.extractLsb' 0 3)
    intcon := resetIntcon (s.intcon.getLsbD 0)
    eecon1 := resetEecon1 q }

/-- Watchdog reset while running (rules R50, R204, R220): TO is 0 and PD 1. -/
def State.watchdogReset (s : State) (q : Bool) : State :=
  { s.resetCommon with
    status := resetStatus false true (s.status.extractLsb' 0 3)
    intcon := resetIntcon (s.intcon.getLsbD 0)
    eecon1 := resetEecon1 q }

/-! ## The environment's moves -/

/-- INTCON with the interrupt flags of a move set, never cleared (rule R68). In SLEEP Timer0 does not count, so T0IF
is not set then (rules R193, R206). -/
def State.flagsRaised (s : State) (m : EnvMove) : Byte :=
  s.intcon ||| (0#5 ++ BitVec.ofBool (m.setT0if && !s.sleeping) ++ BitVec.ofBool m.setIntf ++ BitVec.ofBool m.setRbif)

/-- The devices' part of a move (rule R68): TMR0 (stopped in SLEEP), the interrupt flags, the pins, the data EEPROM's
registers, the counts of watchdog and prescaler. Nothing else changes. -/
def State.applyMove (s : State) (m : EnvMove) : State :=
  { s with
    tmr0 := if s.sleeping then s.tmr0 else m.tmr0.getD s.tmr0
    intcon := s.flagsRaised m
    extA := m.extA.getD s.extA
    extB := m.extB.getD s.extB
    loadA := m.loadA.getD s.loadA
    loadB := m.loadB.getD s.loadB
    eedata := m.eedata.getD s.eedata
    eeadr := m.eeadr.getD s.eeadr
    eecon1 := m.eecon1.getD s.eecon1
    wdt := m.wdt.getD s.wdt
    psc := m.psc.getD s.psc }

/-- The move of this boundary: the first of the list; an empty list is a quiet environment. -/
def State.nextMove (s : State) : EnvMove := s.env.headD {}

/-- `s` after the environment's move of this boundary, which is used up. -/
def State.moved (s : State) : State := { s.applyMove s.nextMove with env := s.env.tail }

end Sys2Proof.Machine
end

