-- ==== Sys2Proof/Machine/BitOriented.lean ====
section
/-! DEFINITION. The bit-oriented file register operations (41_bit_oriented.md, rules R150 to R154). -/

namespace Sys2Proof.Machine

/-- BCF, "Bit Clear f" (rule R151): the whole byte is read, bit `b` cleared, and written back; no flag. -/
def execBcf (f : Designator) (b : BitIndex) (s : State) : Result :=
  .next (s.byteOp f .file fun v => resultOnly (withBit v b.toNat false))

/-- BSF, "Bit Set f" (rule R152). -/
def execBsf (f : Designator) (b : BitIndex) (s : State) : Result :=
  .next (s.byteOp f .file fun v => resultOnly (withBit v b.toNat true))

/-- BTFSC, "Bit Test, Skip if Clear" (rule R153): nothing is written. -/
def execBtfsc (f : Designator) (b : BitIndex) (s : State) : Result :=
  .next (s.advance.skipIf (!(s.memRead (s.ea f)).getLsbD b.toNat))

/-- BTFSS, "Bit Test f, Skip if Set" (rule R154): nothing is written. -/
def execBtfss (f : Designator) (b : BitIndex) (s : State) : Result :=
  .next (s.advance.skipIf ((s.memRead (s.ea f)).getLsbD b.toNat))

end Sys2Proof.Machine
end

