-- ==== Sys2Proof/Machine/ByteOriented.lean ====
section
/-! DEFINITION. The byte-oriented file register operations (40_byte_oriented.md, rules R120 to R140). -/

namespace Sys2Proof.Machine

/-- ADDWF, "Add W and f" (rule R121): `add8(W, F[f])`; C, DC, Z. -/
def execAddwf (f : Designator) (d : Dest) (s : State) : Result :=
  .next (s.byteOp f d fun v => add8 s.w v)

/-- ANDWF, "AND W with f" (rule R122): `W & F[f]`; Z. -/
def execAndwf (f : Designator) (d : Dest) (s : State) : Result :=
  .next (s.byteOp f d fun v => resultZ (s.w &&& v))

/-- CLRF, "Clear f" (rule R123): `F[f] <- 0x00`; Z set. The read of its second quarter cycle is a dummy (rule R72). -/
def execClrf (f : Designator) (s : State) : Result :=
  .next (s.byteOp f .file fun _ => resultZ 0x00#8)

/-- CLRW, "Clear W" (rule R124): `W <- 0x00`; Z set. No file register is read. -/
def execClrw (s : State) : Result :=
  .next (s.literalOp (resultZ 0x00#8))

/-- COMF, "Complement f" (rule R125): `~F[f]`; Z. -/
def execComf (f : Designator) (d : Dest) (s : State) : Result :=
  .next (s.byteOp f d fun v => resultZ (~~~v))

/-- DECF, "Decrement f" (rule R126): `F[f] - 1`; Z only. -/
def execDecf (f : Designator) (d : Dest) (s : State) : Result :=
  .next (s.byteOp f d fun v => resultZ (v - 1#8))

/-- A skip instruction that writes its operand back (rules R127, R129): the result is delivered, no flag is written,
and the next instruction is discarded when the result is 0. With the program counter as destination there are two
writes of `pc` and no stated precedence: refused (rule R29, decision D28). -/
def State.stepAndSkip (s : State) (f : Designator) (d : Dest) (r : Byte) : Result :=
  if d = .file ∧ s.fileReg f = .pcl then .refused .skipOnPcl
  else .next ((s.deliver d (s.ea f) (resultOnly r)).skipIf (r == 0#8))

/-- DECFSZ, "Decrement f, Skip if 0" (rule R127). -/
def execDecfsz (f : Designator) (d : Dest) (s : State) : Result :=
  s.stepAndSkip f d (s.memRead (s.ea f) - 1#8)

/-- INCF, "Increment f" (rule R128): `F[f] + 1`; Z only. -/
def execIncf (f : Designator) (d : Dest) (s : State) : Result :=
  .next (s.byteOp f d fun v => resultZ (v + 1#8))

/-- INCFSZ, "Increment f, Skip if 0" (rule R129). -/
def execIncfsz (f : Designator) (d : Dest) (s : State) : Result :=
  s.stepAndSkip f d (s.memRead (s.ea f) + 1#8)

/-- IORWF, "Inclusive OR W with f" (rule R130): `W | F[f]`; Z. -/
def execIorwf (f : Designator) (d : Dest) (s : State) : Result :=
  .next (s.byteOp f d fun v => resultZ (s.w ||| v))

/-- MOVF, "Move f" (rule R131): `F[f]`, written back with `d = 1`; Z. -/
def execMovf (f : Designator) (d : Dest) (s : State) : Result :=
  .next (s.byteOp f d fun v => resultZ v)

/-- MOVWF, "Move W to f" (rule R132): `F[f] <- W`; no flag. -/
def execMovwf (f : Designator) (s : State) : Result :=
  .next (s.byteOp f .file fun _ => resultOnly s.w)

/-- NOP, "No Operation" (rule R133). -/
def execNop (s : State) : Result :=
  .next s.advance

/-- RLF, "Rotate Left f through Carry" (rule R134): C only. -/
def execRlf (f : Designator) (d : Dest) (s : State) : Result :=
  .next (s.byteOp f d fun v => rotateLeft s.flagC v)

/-- RRF, "Rotate Right f through Carry" (rule R135): C only. -/
def execRrf (f : Designator) (d : Dest) (s : State) : Result :=
  .next (s.byteOp f d fun v => rotateRight s.flagC v)

/-- SUBWF, "Subtract W from f" (rule R136): `sub8(F[f], W)`; C, DC, Z. -/
def execSubwf (f : Designator) (d : Dest) (s : State) : Result :=
  .next (s.byteOp f d fun v => sub8 v s.w)

/-- SWAPF, "Swap Nibbles in f" (rule R137): no flag. -/
def execSwapf (f : Designator) (d : Dest) (s : State) : Result :=
  .next (s.byteOp f d fun v => resultOnly (swapNibbles v))

/-- XORWF, "Exclusive OR W with f" (rule R138): `W ^ F[f]`; Z. -/
def execXorwf (f : Designator) (d : Dest) (s : State) : Result :=
  .next (s.byteOp f d fun v => resultZ (s.w ^^^ v))

end Sys2Proof.Machine
end

