-- ==== Sys2Proof/Machine/LiteralControl.lean ====
section
/-! DEFINITION. The literal and control operations (42_literal_control.md, rules R160 to R174). -/

namespace Sys2Proof.Machine

/-- ADDLW, "Add Literal and W" (rule R160): `add8(W, k)`; C, DC, Z. -/
def execAddlw (k : Byte) (s : State) : Result :=
  .next (s.literalOp (add8 s.w k))

/-- ANDLW, "AND Literal with W" (rule R161): `W & k`; Z. -/
def execAndlw (k : Byte) (s : State) : Result :=
  .next (s.literalOp (resultZ (s.w &&& k)))

/-- CALL, "Call Subroutine" (rule R162): `PC + 1` is pushed, then `pc <- PCLATH[4:3] || k`. -/
def execCall (k : BitVec 11) (s : State) : Result :=
  .next ((s.advance.push (s.pc + 1#13)).jump (s.pageTarget k))

/-- CLRWDT, "Clear Watchdog Timer" (rule R163): the watchdog's counts are cleared, TO and PD set. -/
def execClrwdt (s : State) : Result :=
  .next (s.advance.clearWatchdog.setTOPD true true)

/-- GOTO, "Unconditional Branch" (rule R164). -/
def execGoto (k : BitVec 11) (s : State) : Result :=
  .next (s.advance.jump (s.pageTarget k))

/-- IORLW, "Inclusive OR Literal with W" (rule R165): `W | k`; Z. -/
def execIorlw (k : Byte) (s : State) : Result :=
  .next (s.literalOp (resultZ (s.w ||| k)))

/-- MOVLW, "Move Literal to W" (rule R166): no flag. -/
def execMovlw (k : Byte) (s : State) : Result :=
  .next (s.literalOp (resultOnly k))

/-- RETFIE, "Return from Interrupt" (rule R167). -/
def execRetfie (s : State) : Result :=
  s.returnFromInterrupt

/-- RETLW, "Return with Literal in W" (rule R168): `W <- k; pc <- Pop()`. -/
def execRetlw (k : Byte) (s : State) : Result :=
  (s.setW k).popToPc

/-- RETURN, "Return from Subroutine" (rule R169): `pc <- Pop()`. -/
def execReturn (s : State) : Result :=
  s.popToPc

/-- SLEEP (rule R170): the watchdog's counts are cleared, TO set, PD cleared, and the core sleeps with `pc` at the next
instruction. With an enabled interrupt already pending the spec fixes no effect: refused (rule R206). -/
def execSleep (s : State) : Result :=
  if s.pending then .refused .sleepWithPending
  else .next (s.advance.clearWatchdog.setTOPD true false).fallAsleep

/-- SUBLW, "Subtract W from Literal" (rule R171): `sub8(k, W)`; C, DC, Z. -/
def execSublw (k : Byte) (s : State) : Result :=
  .next (s.literalOp (sub8 k s.w))

/-- XORLW, "Exclusive OR Literal with W" (rule R172): `W ^ k`; Z. -/
def execXorlw (k : Byte) (s : State) : Result :=
  .next (s.literalOp (resultZ (s.w ^^^ k)))

end Sys2Proof.Machine
end

