-- ==== Sys2Proof/Machine/OptionTris.lean ====
section
/-! DEFINITION. The OPTION and TRIS instructions (43_option_tris.md, rules R180 to R182). -/

namespace Sys2Proof.Machine

/-- OPTION, "Load Option Register" (rule R180): `OPTION_REG <- W`, whatever bank is selected. -/
def execOption (s : State) : Result :=
  .next (s.advance.setOption s.w)

/-- TRIS, "Load TRIS Register" (rule R181): 5 is TRISA (bits 4:0), 6 is TRISB; this device has no TRIS[7]. No other
operand is an instruction (rule R102). -/
def execTris (f : BitVec 3) (s : State) : Result :=
  match f.toNat with
  | 5 => .next (s.advance.setTrisA s.w)
  | 6 => .next (s.advance.setTrisB s.w)
  | _ => .refused .trisNoSuchPort

end Sys2Proof.Machine
end

