-- ==== Sys2Proof/Machine/Cycle.lean ====
section
/-! DEFINITION. One step of the machine (00_scope.md section 6.5): the environment's move and what it brings at the
instruction boundary (rules R68, R193 to R198, R204 to R206), else the fetch, decoding and execution of one instruction. -/

namespace Sys2Proof.Machine

/-- What a boundary comes to: the step is over, or an instruction is to run in the given state. -/
inductive Boundary where
  | settled (s : State)
  | execute (s : State)
deriving DecidableEq, Repr

/-- The device's reaction to a reset or a time-out arriving at the boundary, if there is one (rules R204 to R206, R220): a
time-out of a watchdog that is not enabled never occurs. -/
def State.eventOutcome (s : State) : Option LineEvent → Option State
  | none => none
  | some (.powerOn x) => some (s.powerOnReset x)
  | some (.mclr q) => some (s.mclrReset q)
  | some (.watchdog q) =>
    if s.params.wdtEnabled then some (if s.sleeping then s.wakeByWatchdog else s.watchdogReset q) else none

/-- The boundary after the environment's move, when no reset or time-out arrives: a sleeping core wakes or sleeps on
(rule R206), a running core takes a requested interrupt (rules R196, R197), unless it has just been woken, and otherwise
runs an instruction. -/
def State.interruptOutcome (s : State) : Boundary :=
  if s.sleeping then .settled (if s.wakePending then s.wakeByInterrupt else s)
  else if s.request && !s.afterWake then .settled s.takeInterrupt
  else .execute s.endWake

/-- The instruction boundary: the environment moves, then a reset or time-out wins over everything (rule R198), then
wake-up, then interrupt. -/
def State.boundary (s : State) : Boundary :=
  match s.moved.eventOutcome s.nextMove.event with
  | some u => .settled u
  | none => s.moved.interruptOutcome

/-- Fetches the word at the program counter (rule R60), decodes it (rule R98) and executes it. -/
def State.runFetched (s : State) : Result :=
  match s.progRead s.pc with
  | none => .refused .fetchUndefined
  | some w =>
    match decode w with
    | .instr i => exec i s
    | .unassigned u => .refused (.unassignedOpcode u)

/-- One step (00_scope.md section 6.5). -/
def State.cycle (s : State) : Result :=
  match s.boundary with
  | .settled t => .next t
  | .execute t => t.runFetched

/-- The environment's next move made quiet, so that nothing keeps the next step from fetching. -/
def quietHead : List EnvMove → List EnvMove
  | [] => []
  | _ :: ms => {} :: ms

/-- `s` with the word `w` stored where the next step fetches, that step's boundary being kept from doing anything else:
the core is awake, its next environment move is quiet, and a requested interrupt waits one instruction. On the state
after reset only the program changes. -/
def State.storeFetchWord (s : State) (w : ProgWord) : State :=
  { s with
    prog := Program.store s.prog (progIndex s.params s.pc) w
    env := quietHead s.env
    sleeping := false
    afterWake := s.afterWake || s.request }

end Sys2Proof.Machine
end

