-- ==== Sys2Proof/Machine/Step.lean ====
section
/-! DEFINITION. The machine's step, and the state in which the next step runs a given word. -/

namespace Sys2Proof.Machine

/-- One step of the machine (00_scope.md section 6.5). -/
def step (s : State) : Host.Outcome State Fault Refusal := s.cycle

/-- `s` with the instruction word `w` stored where the next step fetches (program words are 14 bits, stored as a unit;
rules R60, R69). `_nbits` is the row's width in whole bytes; every instruction is one word (rule R90). -/
def State.withFetchWord (s : State) (_nbits w : Nat) : State := s.storeFetchWord (BitVec.ofNat 14 w)

end Sys2Proof.Machine
end

