-- ==== Sys2Proof/Safety.lean ====
section
/-! DEFINITION. The terms in which claims about the machine are made: what an instruction is allowed to change, the
store invariant that every step keeps, and what it means that a result is delivered. -/

namespace Sys2Proof

open Sys2Proof.Machine

/-- The file register designator an instruction writes through, if it has one: the `f` of a byte-oriented instruction
with `d = 1`, and of CLRF, MOVWF, BCF and BSF (rules R120(b), R150(c)). -/
def Instr.target : Instr → Option Designator
  | .addwf f .file | .andwf f .file | .comf f .file | .decf f .file | .decfsz f .file | .incf f .file => some f
  | .incfsz f .file | .iorwf f .file | .movf f .file | .rlf f .file | .rrf f .file | .subwf f .file => some f
  | .swapf f .file | .xorwf f .file => some f
  | .clrf f | .movwf f | .bcf f _ | .bsf f _ => some f
  | .addwf _ .w | .andwf _ .w | .comf _ .w | .decf _ .w | .decfsz _ .w | .incf _ .w | .incfsz _ .w => none
  | .iorwf _ .w | .movf _ .w | .rlf _ .w | .rrf _ .w | .subwf _ .w | .swapf _ .w | .xorwf _ .w => none
  | .clrw | .nop | .btfsc .. | .btfss .. => none
  | .addlw .. | .andlw .. | .call .. | .clrwdt | .goto .. | .iorlw .. | .movlw .. | .retfie | .retlw .. | .ret => none
  | .sleep | .sublw .. | .xorlw .. | .option | .tris .. => none

/-- Whether the instruction writes W (rule R20's list). -/
def Instr.writesW : Instr → Bool
  | .addwf _ d | .andwf _ d | .comf _ d | .decf _ d | .decfsz _ d | .incf _ d | .incfsz _ d => d = .w
  | .iorwf _ d | .movf _ d | .rlf _ d | .rrf _ d | .subwf _ d | .swapf _ d | .xorwf _ d => d = .w
  | .clrw | .addlw .. | .andlw .. | .iorlw .. | .movlw .. | .retlw .. | .sublw .. | .xorlw .. => true
  | .clrf .. | .movwf .. | .nop | .bcf .. | .bsf .. | .btfsc .. | .btfss .. => false
  | .call .. | .clrwdt | .goto .. | .retfie | .ret | .sleep | .option | .tris .. => false

/-- Whether the instruction reads W (rule R20's list). -/
def Instr.readsW : Instr → Bool
  | .addwf .. | .andwf .. | .iorwf .. | .subwf .. | .xorwf .. | .movwf .. => true
  | .addlw .. | .andlw .. | .iorlw .. | .sublw .. | .xorlw .. | .option | .tris .. => true
  | .clrf .. | .clrw | .comf .. | .decf .. | .decfsz .. | .incf .. | .incfsz .. | .movf .. | .nop => false
  | .rlf .. | .rrf .. | .swapf .. | .bcf .. | .bsf .. | .btfsc .. | .btfss .. => false
  | .call .. | .clrwdt | .goto .. | .movlw .. | .retfie | .retlw .. | .ret | .sleep => false

/-- Whether the instruction lists C under "Status Affected" (rule R39's table). -/
def Instr.listsC : Instr → Bool
  | .addwf .. | .subwf .. | .addlw .. | .sublw .. | .rlf .. | .rrf .. => true
  | .andwf .. | .clrf .. | .clrw | .comf .. | .decf .. | .decfsz .. | .incf .. | .incfsz .. | .iorwf .. => false
  | .movf .. | .movwf .. | .nop | .swapf .. | .xorwf .. | .bcf .. | .bsf .. | .btfsc .. | .btfss .. => false
  | .andlw .. | .call .. | .clrwdt | .goto .. | .iorlw .. | .movlw .. | .retfie | .retlw .. | .ret | .sleep => false
  | .xorlw .. | .option | .tris .. => false

/-- Whether the instruction lists DC under "Status Affected" (rule R39's table). -/
def Instr.listsDC : Instr → Bool
  | .addwf .. | .subwf .. | .addlw .. | .sublw .. => true
  | .rlf .. | .rrf .. | .andwf .. | .clrf .. | .clrw | .comf .. | .decf .. | .decfsz .. | .incf .. => false
  | .incfsz .. | .iorwf .. | .movf .. | .movwf .. | .nop | .swapf .. | .xorwf .. | .bcf .. | .bsf .. => false
  | .btfsc .. | .btfss .. | .andlw .. | .call .. | .clrwdt | .goto .. | .iorlw .. | .movlw .. | .retfie => false
  | .retlw .. | .ret | .sleep | .xorlw .. | .option | .tris .. => false

/-- Whether the instruction lists Z under "Status Affected" (rule R39's table). -/
def Instr.listsZ : Instr → Bool
  | .addwf .. | .subwf .. | .addlw .. | .sublw .. | .andwf .. | .iorwf .. | .xorwf .. | .andlw .. => true
  | .iorlw .. | .xorlw .. | .comf .. | .decf .. | .incf .. | .movf .. | .clrf .. | .clrw => true
  | .rlf .. | .rrf .. | .decfsz .. | .incfsz .. | .movwf .. | .nop | .swapf .. | .bcf .. | .bsf .. => false
  | .btfsc .. | .btfss .. | .call .. | .clrwdt | .goto .. | .movlw .. | .retfie | .retlw .. | .ret => false
  | .sleep | .option | .tris .. => false

/-- Whether the instruction pushes or pops (rule R30). -/
def Instr.usesStack : Instr → Bool
  | .call .. | .retfie | .retlw .. | .ret => true
  | .addwf .. | .andwf .. | .clrf .. | .clrw | .comf .. | .decf .. | .decfsz .. | .incf .. | .incfsz .. => false
  | .iorwf .. | .movf .. | .movwf .. | .nop | .rlf .. | .rrf .. | .subwf .. | .swapf .. | .xorwf .. => false
  | .bcf .. | .bsf .. | .btfsc .. | .btfss .. | .addlw .. | .andlw .. | .clrwdt | .goto .. | .iorlw .. => false
  | .movlw .. | .sleep | .sublw .. | .xorlw .. | .option | .tris .. => false

/-- The file register an instruction writes in state `s`, if it writes one. -/
def Machine.State.written (s : State) (i : Instr) : Option FileReg := i.target.map s.fileReg

/-- The file register that a result with destination `d` goes to in state `s`; none is W. -/
def Machine.State.dest (s : State) (f : Designator) (d : Dest) : Option FileReg :=
  match d with
  | .w => none
  | .file => some (s.fileReg f)

/-- A flag after an instruction: the listed value if the instruction lists the flag, else the written byte's bit if
STATUS is written as data by an instruction that lists no flag, else what it was (rules R39, R46). -/
def flagAfter (listed : Option Bool) (asData writtenBit old : Bool) : Bool :=
  match listed with
  | some b => b
  | none => if asData then writtenBit else old

/-- The instruction at `s.pc` leaves `t` when it delivers the byte `v` to `target` (none is W, rule R120(b)) and writes
the flags `u`: field by field, everything else as it was. Two clauses rest on the model's choices: `psc` with OPTION_REG as the
target (log entry 13; rule R180 does not decide whether the count is cleared), and `eedata`, `eeadr`, `eecon1`, which hold what
is written until the environment moves them (log entry 6; rule R63 says a draw or a refusal). -/
structure Delivers (s t : State) (target : Option FileReg) (v : Byte) (u : FlagUpdate) : Prop where
  w : t.w = if target = none then v else s.w
  pc : t.pc = if target = some .pcl then s.pclath ++ v else s.pc + 1#13
  pclath : t.pclath = if target = some .pclath then v.setWidth 5 else s.pclath
  flagC : t.flagC = flagAfter u.c (target = some .status ∧ u = {}) (v.getLsbD 0) s.flagC
  flagDC : t.flagDC = flagAfter u.dc (target = some .status ∧ u = {}) (v.getLsbD 1) s.flagDC
  flagZ : t.flagZ = flagAfter u.z (target = some .status ∧ u = {}) (v.getLsbD 2) s.flagZ
  flagPD : t.flagPD = s.flagPD
  flagTO : t.flagTO = s.flagTO
  bankBits : t.status.extractLsb' 5 3 = (if target = some .status then v else s.status).extractLsb' 5 3
  fsr : t.fsr = if target = some .fsr then v else s.fsr
  intcon : t.intcon = if target = some .intcon then v else s.intcon
  optionReg : t.optionReg = if target = some .optionReg then v else s.optionReg
  trisA : t.trisA = if target = some .trisA then v.setWidth 5 else s.trisA
  trisB : t.trisB = if target = some .trisB then v else s.trisB
  latchA : t.latchA = if target = some .portA then v.setWidth 5 else s.latchA
  latchB : t.latchB = if target = some .portB then v else s.latchB
  tmr0 : t.tmr0 = if target = some .tmr0 then v else s.tmr0
  psc : t.psc = if target = some .tmr0 ∧ s.prescalerOnWdt = false then 0x00#8 else s.psc
  eedata : t.eedata = if target = some .eedata then v else s.eedata
  eeadr : t.eeadr = if target = some .eeadr then v else s.eeadr
  eecon1 : t.eecon1 = if target = some .eecon1 then v.setWidth 5 else s.eecon1
  gpr : ∀ n, Memory.read t.gpr n = if target = some (.gpr n) then v else Memory.read s.gpr n
  stack : t.stack = s.stack ∧ t.stackWritten = s.stackWritten ∧ t.sp = s.sp
  watchdog : t.wdt = s.wdt
  sleeping : t.sleeping = s.sleeping
  pins : t.extA = s.extA ∧ t.extB = s.extB ∧ t.loadA = s.loadA ∧ t.loadB = s.loadB
  program : t.prog = s.prog ∧ t.params = s.params
  model : t.env = s.env ∧ t.afterWake = s.afterWake
  cycles : t.cycles = s.cycles + if target = some .pcl then 2 else 1

/-- The store invariant: both memories are in canonical form and list nothing outside the implemented range. -/
structure StoreInv (s : State) : Prop where
  gprWf : Memory.wf s.gpr = true
  gprInRange : Memory.inRange s.params s.gpr = true
  progWf : Program.wf s.prog = true
  progInRange : Program.inRange s.params s.prog = true

/-- The sleep invariant: a sleeping core has no enabled interrupt pending (rules R195, R206). -/
def SleepInv (s : State) : Prop := s.sleeping = true → s.pending = false

/-- The two states agree on all that rule R68 says the environment never changes between two instructions. -/
structure SameCore (s t : State) : Prop where
  w : t.w = s.w
  pc : t.pc = s.pc
  pclath : t.pclath = s.pclath
  status : t.status = s.status
  fsr : t.fsr = s.fsr
  stack : t.stack = s.stack ∧ t.stackWritten = s.stackWritten ∧ t.sp = s.sp
  gpr : t.gpr = s.gpr
  latches : t.latchA = s.latchA ∧ t.latchB = s.latchB
  optionReg : t.optionReg = s.optionReg
  tris : t.trisA = s.trisA ∧ t.trisB = s.trisB
  sleeping : t.sleeping = s.sleeping
  program : t.prog = s.prog ∧ t.params = s.params
  model : t.afterWake = s.afterWake ∧ t.cycles = s.cycles

/-- An outcome whose next state, if there is one, is changed by `g`; a stop stays as it is. -/
def mapNext (g : State → State) : Result → Result
  | .next t => .next (g t)
  | .fault r => .fault r
  | .refused r => .refused r

end Sys2Proof
end

