-- ==== Sys2Proof/Certificates/Slice0/Obligations.lean ====
section
/-! DEFINITION. The statements for the provers, in the order of OBLIGATIONS.json. Each docstring names the rule of spec/ it
formalises, or says which choice of the model it is about. -/

open Sys2Proof Sys2Proof.Machine

/-! ## Decoding and encoding -/

/-- Decoding the canonical word of any well-formed instruction gives the instruction back (rules R96, R97, R99). -/
def Obligations.DecodeInvertsEncode : Prop :=
  ∀ i : Instr, i.wellFormed = true → decode (encode i) = .instr i

/-- A word decodes to an instruction exactly when it agrees with the instruction's canonical word in every position that is
not a don't-care. That the `x` positions of CLRW, NOP, MOVLW, RETLW, ADDLW and SUBLW may hold anything and that the canonical
words have 0 there is rule R97; that the decoder admits them all is the spec's decision D18 (log entry 22); that no other word
decodes to the instruction comes from rules R98 and R99. -/
def Obligations.DontCareBitsNeverMatter : Prop :=
  (∀ (w : ProgWord) (i : Instr), i.wellFormed = true → (decode w = .instr i ↔ w &&& careMask i = encode i)) ∧
  (∀ x : BitVec 7, decode (0b0000010#7 ++ x) = .instr .clrw) ∧
  (∀ x : BitVec 2, decode (0b0000000#7 ++ x ++ 0b00000#5) = .instr .nop) ∧
  (∀ (x : BitVec 2) (k : Byte), decode (0b1100#4 ++ x ++ k) = .instr (.movlw k) ∧
    decode (0b1101#4 ++ x ++ k) = .instr (.retlw k)) ∧
  (∀ (x : BitVec 1) (k : Byte), decode (0b11111#5 ++ x ++ k) = .instr (.addlw k) ∧
    decode (0b11110#5 ++ x ++ k) = .instr (.sublw k)) ∧
  encode .clrw = 0x0100#14 ∧ encode .nop = 0x0000#14 ∧
  ∀ k : Byte, encode (.movlw k) = 0x30#6 ++ k ∧ encode (.retlw k) = 0x34#6 ++ k ∧
    encode (.addlw k) = 0x3E#6 ++ k ∧ encode (.sublw k) = 0x3C#6 ++ k

/-- The rejected words are the 372 of rule R101's table, each rejected by its own name. -/
def Obligations.UnassignedWordsAreTheListedOnes : Prop :=
  (∀ w u : ProgWord, decode w = .unassigned u → u = w) ∧
  ∀ w : ProgWord, decode w = .unassigned w ↔
    (0x0001 ≤ w.toNat ∧ w.toNat ≤ 0x0007) ∨ (0x000A ≤ w.toNat ∧ w.toNat ≤ 0x001F) ∨
    (0x0021 ≤ w.toNat ∧ w.toNat ≤ 0x003F) ∨ (0x0041 ≤ w.toNat ∧ w.toNat ≤ 0x005F) ∨ w.toNat = 0x0061 ∨
    (0x0068 ≤ w.toNat ∧ w.toNat ≤ 0x007F) ∨ (0x3B00 ≤ w.toNat ∧ w.toNat ≤ 0x3BFF)

/-- Words written out from the spec's encodings (95_test_vectors.md section 3) decode to what they stand for. -/
def Obligations.SpecWordsDecode : Prop :=
  decode 0x070C#14 = .instr (.addwf 0x0C#7 .w) ∧ decode 0x13FF#14 = .instr (.bcf 0x7F#7 7#3) ∧
  decode 0x27FF#14 = .instr (.call 0x7FF#11) ∧ decode 0x3FFF#14 = .instr (.addlw 0xFF#8) ∧
  decode 0x0066#14 = .instr (.tris 6#3) ∧ decode 0x0060#14 = .instr .nop ∧ decode 0x0010#14 = .unassigned 0x0010#14

/-! ## The step -/

/-- At a boundary that brings no reset and no time-out to an awake core, and at which no interrupt is requested or a requested
one is held back (`afterWake`), the step is the execution of the decoded instruction in the state the environment's move
leaves (00_scope.md section 6.5; rules R60, R98, R197); with a quiet environment that is the state itself. By rule R197 alone a
requested interrupt is entered; that the instruction after SLEEP runs first is rule R206, the spec's decision D23. Holding the
entry back by the field `afterWake`, also when the watchdog's wake-up coincides with a wake-up source, which R206 does not
describe, is the model's choice (log entry 14). `endWake` ends the holding back. -/
def Obligations.StepRunsTheDecodedInstruction : Prop :=
  (∀ (s : State) (w : ProgWord) (i : Instr), s.moved.eventOutcome s.nextMove.event = none → s.sleeping = false →
    (s.moved.request = false ∨ s.afterWake = true) → s.progRead s.pc = some w → decode w = .instr i →
    step s = exec i s.moved.endWake) ∧
  (∀ (s : State) (w : ProgWord) (i : Instr), s.env = [] → s.sleeping = false →
    (s.request = false ∨ s.afterWake = true) → s.progRead s.pc = some w → decode w = .instr i →
    step s = exec i s.endWake)

/-- Where no instruction can be had, the step stops under the name rule R191 gives: a program word never given a value
(rule R60), a word that no row assigns (rule R101). -/
def Obligations.StepStopsWhereNoInstructionStands : Prop :=
  ∀ s : State, s.env = [] → s.sleeping = false → s.request = false →
    (s.progRead s.pc = none → step s = .refused .fetchUndefined) ∧
    (∀ w : ProgWord, s.progRead s.pc = some w → decode w = .unassigned w → step s = .refused (.unassignedOpcode w))

/-- Only the low 10 (1024 words) or 9 (512 words) bits of a program address select a word; the others are ignored by the
fetch (rules R26, R60, R73). -/
def Obligations.FetchIgnoresTheUpperAddressBits : Prop :=
  ∀ (s : State) (a : ProgAddr),
    (s.params.progSize = .words1024 → s.progRead a = Program.read s.prog (a.extractLsb' 0 10).toNat) ∧
    (s.params.progSize = .words512 → s.progRead a = Program.read s.prog (a.extractLsb' 0 9).toNat)

/-! ## Invariants and whole-machine rules -/

/-- Every step, resets and interrupts included, keeps both memories in canonical form and inside the implemented range
(rules R60, R63). -/
def Obligations.EveryStepKeepsTheStoreInvariant : Prop :=
  ∀ s t : State, StoreInv s → step s = .next t → StoreInv t

/-- The store invariant holds at reset. -/
def Obligations.ResetHasTheStoreInvariant : Prop :=
  StoreInv State.reset

/-- Two memories in canonical form that read alike at every register are equal, so that equal contents are equal data. -/
def Obligations.CanonicalMemoriesThatReadAlikeAreEqual : Prop :=
  ∀ m n : Memory, Memory.wf m = true → Memory.wf n = true → (∀ k, Memory.read m k = Memory.read n k) → m = n

/-- No step writes program memory or changes the device variant, and no instruction's effect depends on program memory
(rule R61). -/
def Obligations.ProgramMemoryIsNeitherWrittenNorRead : Prop :=
  (∀ s t : State, step s = .next t → t.prog = s.prog ∧ t.params = s.params) ∧
  (∀ (i : Instr) (s : State) (p : Program),
    exec i { s with prog := p } = mapNext (fun t => { t with prog := p }) (exec i s))

/-- An instruction changes nothing but what it names: each register only if it is the file register the instruction
writes, or the instruction's own implicit effect (OPTION, TRIS, CLRWDT, SLEEP, RETFIE, the stack instructions; the prescaler
with a write of TMR0), and every byte of data memory outside the one written reads as before. That OPTION, and a write of OPTION_REG, leave the
prescaler's count is the model's choice (log entry 13; rule R180 does not decide it). -/
def Obligations.AnInstructionChangesOnlyWhatItNames : Prop :=
  ∀ (i : Instr) (s t : State), exec i s = .next t →
    (i.writesW = false → t.w = s.w) ∧
    (s.written i ≠ some .pclath → t.pclath = s.pclath) ∧
    (s.written i ≠ some .fsr → t.fsr = s.fsr) ∧
    (s.written i ≠ some .intcon → i ≠ .retfie → t.intcon = s.intcon) ∧
    (s.written i ≠ some .optionReg → i ≠ .option → t.optionReg = s.optionReg) ∧
    (s.written i ≠ some .trisA → i ≠ .tris 5#3 → t.trisA = s.trisA) ∧
    (s.written i ≠ some .trisB → i ≠ .tris 6#3 → t.trisB = s.trisB) ∧
    (s.written i ≠ some .portA → t.latchA = s.latchA) ∧
    (s.written i ≠ some .portB → t.latchB = s.latchB) ∧
    (s.written i ≠ some .tmr0 → t.tmr0 = s.tmr0) ∧
    (s.written i ≠ some .tmr0 → i ≠ .clrwdt → i ≠ .sleep → t.psc = s.psc) ∧
    (i ≠ .clrwdt → i ≠ .sleep → t.wdt = s.wdt) ∧
    (s.written i ≠ some .eedata → t.eedata = s.eedata) ∧
    (s.written i ≠ some .eeadr → t.eeadr = s.eeadr) ∧
    (s.written i ≠ some .eecon1 → t.eecon1 = s.eecon1) ∧
    (∀ n, s.written i ≠ some (.gpr n) → Memory.read t.gpr n = Memory.read s.gpr n) ∧
    (i.usesStack = false → t.stack = s.stack ∧ t.stackWritten = s.stackWritten ∧ t.sp = s.sp) ∧
    (s.written i ≠ some .status → t.status.extractLsb' 5 3 = s.status.extractLsb' 5 3) ∧
    (i ≠ .sleep → t.sleeping = s.sleeping) ∧
    t.extA = s.extA ∧ t.extB = s.extB ∧ t.loadA = s.loadA ∧ t.loadB = s.loadB ∧ t.params = s.params ∧
    t.env = s.env ∧ t.afterWake = s.afterWake

/-- Rule R39's table: an instruction that does not have STATUS as its explicit destination leaves every flag it does not
list as it was, and sets those the table says it sets; GIE likewise, where INTCON is not the explicit destination (rule R40).
That TO and PD stay, and CLRF sets Z, with STATUS as the destination too, is rules R37, R38 and R46 (the spec's decision D7). -/
def Obligations.FlagsChangeOnlyAsTheTableSays : Prop :=
  ∀ (i : Instr) (s t : State), exec i s = .next t →
    (s.written i ≠ some .status →
      (i.listsC = false → t.flagC = s.flagC) ∧ (i.listsDC = false → t.flagDC = s.flagDC) ∧
      (i.listsZ = false → t.flagZ = s.flagZ)) ∧
    (i ≠ .clrwdt → i ≠ .sleep → t.flagTO = s.flagTO ∧ t.flagPD = s.flagPD) ∧
    (i = .clrwdt → t.flagTO = true ∧ t.flagPD = true) ∧ (i = .sleep → t.flagTO = true ∧ t.flagPD = false) ∧
    ((i = .clrw ∨ ∃ f, i = .clrf f) → t.flagZ = true) ∧
    (i = .retfie → t.gie = true) ∧ (i ≠ .retfie → s.written i ≠ some .intcon → t.gie = s.gie)

/-- Rule R20: only the instructions it lists write W, and only those it lists read it: the effect of any other is the
same whatever W holds. -/
def Obligations.OnlyTheListedInstructionsUseW : Prop :=
  (∀ (i : Instr) (s t : State), exec i s = .next t → i.writesW = false → t.w = s.w) ∧
  (∀ (i : Instr) (s : State) (v : Byte), i.readsW = false →
    exec i { s with w := v } = mapNext (fun t => if i.writesW then t else { t with w := v }) (exec i s))

/-- A step after which GIE is 1 and before which it was 0 executed RETFIE or an instruction whose destination is INTCON
(rules R40, R209). -/
def Obligations.GieRisesOnlyByRetfieOrIntcon : Prop :=
  ∀ s t : State, step s = .next t → s.gie = false → t.gie = true →
    ∃ w i, s.progRead s.pc = some w ∧ decode w = .instr i ∧ (i = .retfie ∨ s.moved.written i = some .intcon)

/-- The counts of the watchdog and the prescaler, and the model's count of cycles, decide nothing that an instruction
does (rule R41: no instruction reads either count; R230: timing only). -/
def Obligations.CountsAreInvisibleToInstructions : Prop :=
  ∀ (i : Instr) (s : State) (wdt psc : Byte) (c : Nat),
    mapNext (fun t => { t with wdt := 0#8, psc := 0#8, cycles := 0 }) (exec i { s with wdt := wdt, psc := psc, cycles := c }) =
      mapNext (fun t => { t with wdt := 0#8, psc := 0#8, cycles := 0 }) (exec i s)

/-- Rule R232's table: two cycles for CALL, GOTO and the returns, for a skip that is taken, and for an instruction whose
destination is PCL; one cycle for everything else. The count is the model's own field (log entry 16). -/
def Obligations.CycleCountsFollowTheTable : Prop :=
  ∀ (i : Instr) (s t : State), exec i s = .next t →
    t.cycles = s.cycles +
      match i with
      | .call _ | .goto _ | .retfie | .retlw _ | .ret => 2
      | .decfsz f _ => if s.memRead (s.ea f) = 0x01#8 then 2 else 1
      | .incfsz f _ => if s.memRead (s.ea f) = 0xFF#8 then 2 else 1
      | .btfsc f b => if (s.memRead (s.ea f)).getLsbD b.toNat then 1 else 2
      | .btfss f b => if (s.memRead (s.ea f)).getLsbD b.toNat then 2 else 1
      | j => if s.written j = some .pcl then 2 else 1

/-! ## Operand access -/

/-- Rule R62: designator 0 takes the address from FSR, any other is RP0 and the designator; IRP and RP1 are ignored; INDF
reached through itself reads 0 and stores nothing. The rule is the spec's decision D5. -/
def Obligations.EffectiveAddressFormation : Prop :=
  (∀ s : State, s.ea 0#7 = s.fsr) ∧
  (∀ (s : State) (f : Designator), f ≠ 0#7 → (s.ea f).toNat = (if s.rp0 then 128 else 0) + f.toNat) ∧
  (∀ (s : State) (f : Designator) (irp rp1 : Bool),
    ({ s with status := withBit (withBit s.status 7 irp) 6 rp1 } : State).ea f = s.ea f) ∧
  (∀ s : State, (s.fsr = 0x00#8 ∨ s.fsr = 0x80#8) →
    s.memRead (s.ea 0#7) = 0x00#8 ∧ ∀ aff v, s.memWrite aff (s.ea 0#7) v = s)

/-- Rule R63's map, address by address: each register stands where the table puts it and nowhere else; bank 1's general
purpose registers are bank 0's. The map is the spec's decision D6. -/
def Obligations.DataMemoryMap : Prop :=
  ∀ (p : Config.DeviceParams) (a : Byte),
    (fileMap p a = .indf ↔ a.toNat % 128 = 0) ∧ (fileMap p a = .tmr0 ↔ a.toNat = 0x01) ∧
    (fileMap p a = .optionReg ↔ a.toNat = 0x81) ∧ (fileMap p a = .pcl ↔ a.toNat % 128 = 2) ∧
    (fileMap p a = .status ↔ a.toNat % 128 = 3) ∧ (fileMap p a = .fsr ↔ a.toNat % 128 = 4) ∧
    (fileMap p a = .portA ↔ a.toNat = 0x05) ∧ (fileMap p a = .trisA ↔ a.toNat = 0x85) ∧
    (fileMap p a = .portB ↔ a.toNat = 0x06) ∧ (fileMap p a = .trisB ↔ a.toNat = 0x86) ∧
    (fileMap p a = .eedata ↔ a.toNat = 0x08) ∧ (fileMap p a = .eecon1 ↔ a.toNat = 0x88) ∧
    (fileMap p a = .eeadr ↔ a.toNat = 0x09) ∧ (fileMap p a = .eecon2 ↔ a.toNat = 0x89) ∧
    (fileMap p a = .pclath ↔ a.toNat % 128 = 0x0A) ∧ (fileMap p a = .intcon ↔ a.toNat % 128 = 0x0B) ∧
    (∀ n, fileMap p a = .gpr n ↔ n = a.toNat % 128 ∧ 0x0C ≤ n ∧ n ≤ p.gprLast) ∧
    (fileMap p a = .unimplemented ↔ a.toNat % 128 = 7 ∨ p.gprLast < a.toNat % 128)

/-- What a file register reads right after it was written (rules R63 to R65, R29, R46, R66): a full register the byte, a
register with unimplemented bits the implemented ones, STATUS all but TO and PD (bits 7:5 only, for an instruction that lists a
flag), a port the byte on pins that show their latch, PCL the low byte of the address behind the one jumped to, an address
without storage 0. That EEDATA, EEADR and EECON1 read back is the model's choice (log entry 6; rule R63 says a draw or a
refusal); the map is the spec's decision D6, STATUS D7, PCL D8, the ports D20 (log entry 7). -/
def Obligations.WrittenRegistersReadBack : Prop :=
  ∀ (s : State) (aff : Bool) (a v : Byte),
    (fileMap s.params a ∈ [.tmr0, .optionReg, .fsr, .trisB, .eedata, .eeadr, .intcon] →
      (s.memWrite aff a v).memRead a = v) ∧
    (∀ n, fileMap s.params a = .gpr n → (s.memWrite aff a v).memRead a = v) ∧
    (fileMap s.params a ∈ [.trisA, .eecon1, .pclath] → (s.memWrite aff a v).memRead a = v &&& 0x1F#8) ∧
    (fileMap s.params a = .status →
      (s.memWrite aff a v).memRead a =
        if aff then (v &&& 0b11100000#8) ||| (s.status &&& 0b00011111#8)
        else (v &&& 0b11100111#8) ||| (s.status &&& 0b00011000#8)) ∧
    (fileMap s.params a = .portA → ∀ i,
      ((s.memWrite aff a v).memRead a).getLsbD i =
        (decide (i < 5) && if s.trisA.getLsbD i || s.loadA.getLsbD i then s.extA.getLsbD i else v.getLsbD i)) ∧
    (fileMap s.params a = .portB → ∀ i, i < 8 →
      ((s.memWrite aff a v).memRead a).getLsbD i =
        if s.trisB.getLsbD i || s.loadB.getLsbD i then s.extB.getLsbD i else v.getLsbD i) ∧
    (fileMap s.params a = .pcl → (s.memWrite aff a v).memRead a = v + 1#8) ∧
    (fileMap s.params a ∈ [.indf, .eecon2, .unimplemented] →
      s.memRead a = 0x00#8 ∧ s.memWrite aff a v = s)

/-- What `MemRead` returns for each register of the map (rules R29, R45, R63, R64, R66): every flag of STATUS at its bit, the
five pins of PORTA with bits 7:5 zero, the eight pins of PORTB, PCL as the low byte of `PC + 1`, unimplemented bits and
addresses 0. The map is the spec's decision D6, STATUS's layout D7, an output pin that shows its latch D20 (log entry 7), the
registers of the data EEPROM log entry 6. -/
def Obligations.FileRegisterReads : Prop :=
  ∀ (s : State) (a : Byte),
    (fileMap s.params a = .status → s.memRead a = s.status ∧
      (s.memRead a).getLsbD 0 = s.flagC ∧ (s.memRead a).getLsbD 1 = s.flagDC ∧ (s.memRead a).getLsbD 2 = s.flagZ ∧
      (s.memRead a).getLsbD 3 = s.flagPD ∧ (s.memRead a).getLsbD 4 = s.flagTO ∧ (s.memRead a).getLsbD 5 = s.rp0) ∧
    (fileMap s.params a = .portA → ∀ i, (s.memRead a).getLsbD i =
      (decide (i < 5) && if s.trisA.getLsbD i || s.loadA.getLsbD i then s.extA.getLsbD i else s.latchA.getLsbD i)) ∧
    (fileMap s.params a = .portB → ∀ i, i < 8 → (s.memRead a).getLsbD i =
      if s.trisB.getLsbD i || s.loadB.getLsbD i then s.extB.getLsbD i else s.latchB.getLsbD i) ∧
    (fileMap s.params a = .pcl → (s.memRead a).toNat = (s.pc.toNat + 1) % 256) ∧
    (fileMap s.params a = .pclath → (s.memRead a).toNat = s.pclath.toNat) ∧
    (fileMap s.params a = .trisA → (s.memRead a).toNat = s.trisA.toNat) ∧
    (fileMap s.params a = .eecon1 → (s.memRead a).toNat = s.eecon1.toNat) ∧
    (fileMap s.params a = .trisB → s.memRead a = s.trisB) ∧
    (fileMap s.params a = .intcon → s.memRead a = s.intcon ∧ (s.memRead a).getLsbD 7 = s.gie) ∧
    (fileMap s.params a = .optionReg → s.memRead a = s.optionReg) ∧
    (fileMap s.params a = .tmr0 → s.memRead a = s.tmr0) ∧ (fileMap s.params a = .fsr → s.memRead a = s.fsr) ∧
    (fileMap s.params a = .eedata → s.memRead a = s.eedata) ∧ (fileMap s.params a = .eeadr → s.memRead a = s.eeadr) ∧
    (∀ n, fileMap s.params a = .gpr n → s.memRead a = Memory.read s.gpr n) ∧
    (fileMap s.params a ∈ [.indf, .eecon2, .unimplemented] → s.memRead a = 0x00#8)

/-- Rule R46, STATUS as an explicit destination, with its two examples: TO and PD are never changed; without a listed flag
the byte sets the other six bits; with one it sets bits 7:5, the listed flags take their values and the others stay. The
rule is the spec's decision D7. -/
def Obligations.StatusAsDestination : Prop :=
  (∀ (s : State) (a : Byte) (r : AluResult), fileMap s.params a = .status →
    (s.deliver .file a r).flagTO = s.flagTO ∧ (s.deliver .file a r).flagPD = s.flagPD ∧
    (∀ i, 5 ≤ i → i < 8 → (s.deliver .file a r).status.getLsbD i = r.value.getLsbD i) ∧
    (r.flags = {} → ∀ i, i < 3 → (s.deliver .file a r).status.getLsbD i = r.value.getLsbD i) ∧
    (r.flags ≠ {} → (s.deliver .file a r).flagC = r.flags.c.getD s.flagC ∧
      (s.deliver .file a r).flagDC = r.flags.dc.getD s.flagDC ∧ (s.deliver .file a r).flagZ = r.flags.z.getD s.flagZ)) ∧
  (∀ (s : State) (f : Designator), s.fileReg f = .status →
    ∃ t, exec (.clrf f) s = .next t ∧ t.status = (s.status &&& 0b00011111#8) ||| 0b00000100#8) ∧
  (∀ (s : State) (f : Designator), s.fileReg f = .status →
    ∃ t, exec (.movwf f) s = .next t ∧ t.status = (s.w &&& 0b11100111#8) ||| (s.status &&& 0b00011000#8))

/-- Rules R66 and R235 (Table 9-2 Note 1), on PORTA and PORTB: a latch counts only through the pins, so that EVERY instruction
whose destination is a port does the same on two latches that show the same pin levels; BSF and BCF give every other latch bit
the level of its pin, and `MOVF PORT, 1` gives it to every bit: the outside level on an input pin or an overdriven output,
the latch bit itself on any other output. That last is the spec's decision D20 (log entry 7). -/
def Obligations.PortReadModifyWriteUsesThePins : Prop :=
  (∀ (i : Instr) (s : State) (l : BitVec 5), s.written i = some .portA →
    ({ s with latchA := l } : State).pinsA = s.pinsA → exec i { s with latchA := l } = exec i s) ∧
  (∀ (i : Instr) (s : State) (l : Byte), s.written i = some .portB →
    ({ s with latchB := l } : State).pinsB = s.pinsB → exec i { s with latchB := l } = exec i s) ∧
  (∀ (s : State) (f : Designator) (b : BitIndex), s.fileReg f = .portA →
    (∃ t, exec (.bsf f b) s = .next t ∧ ∀ i, i < 5 → t.latchA.getLsbD i =
      if i = b.toNat then true
      else if s.trisA.getLsbD i || s.loadA.getLsbD i then s.extA.getLsbD i else s.latchA.getLsbD i) ∧
    (∃ t, exec (.bcf f b) s = .next t ∧ ∀ i, i < 5 → t.latchA.getLsbD i =
      if i = b.toNat then false
      else if s.trisA.getLsbD i || s.loadA.getLsbD i then s.extA.getLsbD i else s.latchA.getLsbD i) ∧
    (∃ t, exec (.movf f .file) s = .next t ∧ ∀ i, i < 5 → t.latchA.getLsbD i =
      if s.trisA.getLsbD i || s.loadA.getLsbD i then s.extA.getLsbD i else s.latchA.getLsbD i)) ∧
  (∀ (s : State) (f : Designator) (b : BitIndex), s.fileReg f = .portB →
    (∃ t, exec (.bsf f b) s = .next t ∧ ∀ i, i < 8 → t.latchB.getLsbD i =
      if i = b.toNat then true
      else if s.trisB.getLsbD i || s.loadB.getLsbD i then s.extB.getLsbD i else s.latchB.getLsbD i) ∧
    (∃ t, exec (.bcf f b) s = .next t ∧ ∀ i, i < 8 → t.latchB.getLsbD i =
      if i = b.toNat then false
      else if s.trisB.getLsbD i || s.loadB.getLsbD i then s.extB.getLsbD i else s.latchB.getLsbD i) ∧
    (∃ t, exec (.movf f .file) s = .next t ∧ ∀ i, i < 8 → t.latchB.getLsbD i =
      if s.trisB.getLsbD i || s.loadB.getLsbD i then s.extB.getLsbD i else s.latchB.getLsbD i))

/-- Rule R67 (Table 9-2 Note 2; conflict C14): every instruction that writes TMR0 clears the prescaler's count if the
prescaler is assigned to Timer0, and leaves it if it is not. The assignment bit is the spec's decision D22. -/
def Obligations.WritesOfTmr0ClearItsPrescaler : Prop :=
  ∀ (i : Instr) (s t : State), s.written i = some .tmr0 → exec i s = .next t →
    (s.optionReg.getLsbD 3 = false → t.psc = 0x00#8) ∧ (s.optionReg.getLsbD 3 = true → t.psc = s.psc)

/-! ## Arithmetic helpers -/

/-- Rule R139's helpers as arithmetic on numbers: sums and differences modulo 256, C and DC the carries out of bits 7 and 3
(for a difference: no borrow), Z the zero result. The additions' C and both DC are the spec's decision D9. -/
def Obligations.AddAndSubtractHelpers : Prop :=
  ∀ a b : Byte,
    (add8 a b).value.toNat = (a.toNat + b.toNat) % 256 ∧
    (add8 a b).flags = { c := some (256 ≤ a.toNat + b.toNat), dc := some (16 ≤ a.toNat % 16 + b.toNat % 16),
                         z := some ((a.toNat + b.toNat) % 256 = 0) } ∧
    (sub8 a b).value.toNat = (a.toNat + 256 - b.toNat) % 256 ∧
    (sub8 a b).flags = { c := some (b.toNat ≤ a.toNat), dc := some (b.toNat % 16 ≤ a.toNat % 16),
                         z := some (a.toNat = b.toNat) }

/-! ## Byte-oriented instructions: results, flags and frames -/

/-- ADDWF and SUBWF (rules R121, R136): the result and its flags delivered to the destination; nothing else changes. C of
the addition and DC are the spec's decision D9. What `Delivers` says of the prescaler and of the data
EEPROM's registers rests on log entries 13 and 6. -/
def Obligations.AddwfAndSubwfDeliver : Prop :=
  ∀ (f : Designator) (d : Dest) (s : State),
    (∃ t, exec (.addwf f d) s = .next t ∧
      Delivers s t (s.dest f d) (BitVec.ofNat 8 (s.w.toNat + (s.memRead (s.ea f)).toNat))
        { c := some (256 ≤ s.w.toNat + (s.memRead (s.ea f)).toNat)
          dc := some (16 ≤ s.w.toNat % 16 + (s.memRead (s.ea f)).toNat % 16)
          z := some ((s.w.toNat + (s.memRead (s.ea f)).toNat) % 256 = 0) }) ∧
    (∃ t, exec (.subwf f d) s = .next t ∧
      Delivers s t (s.dest f d) (BitVec.ofNat 8 ((s.memRead (s.ea f)).toNat + 256 - s.w.toNat))
        { c := some (s.w.toNat ≤ (s.memRead (s.ea f)).toNat)
          dc := some (s.w.toNat % 16 ≤ (s.memRead (s.ea f)).toNat % 16)
          z := some (s.w = s.memRead (s.ea f)) })

/-- ANDWF, IORWF, XORWF and COMF (rules R122, R130, R138, R125), with their encodings: the bitwise result is delivered, Z
says whether it is zero, C and DC stay, nothing else changes. What `Delivers` says of the prescaler and of the data
EEPROM's registers rests on log entries 13 and 6. -/
def Obligations.LogicInstructionsDeliver : Prop :=
  (∀ (f : Designator) (d : Dest),
    decode (0b000101#6 ++ d.bit ++ f) = .instr (.andwf f d) ∧ decode (0b000100#6 ++ d.bit ++ f) = .instr (.iorwf f d) ∧
    decode (0b000110#6 ++ d.bit ++ f) = .instr (.xorwf f d) ∧ decode (0b001001#6 ++ d.bit ++ f) = .instr (.comf f d)) ∧
  (∀ (f : Designator) (d : Dest) (s : State), ∃ v, (∀ i, i < 8 → v.getLsbD i = (s.w.getLsbD i && (s.memRead (s.ea f)).getLsbD i)) ∧
    ∃ t, exec (.andwf f d) s = .next t ∧ Delivers s t (s.dest f d) v { z := some (v = 0#8) }) ∧
  (∀ (f : Designator) (d : Dest) (s : State), ∃ v, (∀ i, i < 8 → v.getLsbD i = (s.w.getLsbD i || (s.memRead (s.ea f)).getLsbD i)) ∧
    ∃ t, exec (.iorwf f d) s = .next t ∧ Delivers s t (s.dest f d) v { z := some (v = 0#8) }) ∧
  (∀ (f : Designator) (d : Dest) (s : State), ∃ v, (∀ i, i < 8 → v.getLsbD i = (s.w.getLsbD i != (s.memRead (s.ea f)).getLsbD i)) ∧
    ∃ t, exec (.xorwf f d) s = .next t ∧ Delivers s t (s.dest f d) v { z := some (v = 0#8) }) ∧
  (∀ (f : Designator) (d : Dest) (s : State), ∃ v, v.toNat = 255 - (s.memRead (s.ea f)).toNat ∧
    ∃ t, exec (.comf f d) s = .next t ∧ Delivers s t (s.dest f d) v { z := some (v = 0#8) })

/-- INCF, DECF and MOVF (rules R128, R126, R131), with their encodings: the result modulo 256 is delivered and Z says
whether it is zero; C and DC stay, nothing else changes. What `Delivers` says of the prescaler and of the data
EEPROM's registers rests on log entries 13 and 6. -/
def Obligations.IncfDecfMovfDeliver : Prop :=
  (∀ (f : Designator) (d : Dest),
    decode (0b001010#6 ++ d.bit ++ f) = .instr (.incf f d) ∧ decode (0b000011#6 ++ d.bit ++ f) = .instr (.decf f d) ∧
    decode (0b001000#6 ++ d.bit ++ f) = .instr (.movf f d)) ∧
  (∀ (f : Designator) (d : Dest) (s : State),
    (∃ t, exec (.incf f d) s = .next t ∧
      Delivers s t (s.dest f d) (BitVec.ofNat 8 ((s.memRead (s.ea f)).toNat + 1))
        { z := some ((s.memRead (s.ea f)).toNat = 255) }) ∧
    (∃ t, exec (.decf f d) s = .next t ∧
      Delivers s t (s.dest f d) (BitVec.ofNat 8 ((s.memRead (s.ea f)).toNat + 255))
        { z := some ((s.memRead (s.ea f)).toNat = 1) }) ∧
    (∃ t, exec (.movf f d) s = .next t ∧
      Delivers s t (s.dest f d) (s.memRead (s.ea f)) { z := some ((s.memRead (s.ea f)).toNat = 0) }))

/-- CLRF, MOVWF and SWAPF (rules R123, R132, R137), with their encodings: 0 with Z set, W with no flag, the exchanged
nibbles with no flag. What `Delivers` says of the prescaler and of the data
EEPROM's registers rests on log entries 13 and 6. -/
def Obligations.ClrfMovwfSwapfDeliver : Prop :=
  (∀ (f : Designator) (d : Dest),
    decode (0b0000011#7 ++ f) = .instr (.clrf f) ∧ decode (0b0000001#7 ++ f) = .instr (.movwf f) ∧
    decode (0b001110#6 ++ d.bit ++ f) = .instr (.swapf f d)) ∧
  (∀ (f : Designator) (d : Dest) (s : State),
    (∃ t, exec (.clrf f) s = .next t ∧ Delivers s t (some (s.fileReg f)) 0x00#8 { z := some true }) ∧
    (∃ t, exec (.movwf f) s = .next t ∧ Delivers s t (some (s.fileReg f)) s.w {}) ∧
    (∃ t, exec (.swapf f d) s = .next t ∧
      Delivers s t (s.dest f d)
        (BitVec.ofNat 8 ((s.memRead (s.ea f)).toNat % 16 * 16 + (s.memRead (s.ea f)).toNat / 16)) {}))

/-- RLF and RRF (rules R134, R135), with their encodings: the nine bits of C and the register are rotated by one, C is the
only flag written, nothing else changes. What `Delivers` says of the prescaler and of the data
EEPROM's registers rests on log entries 13 and 6. -/
def Obligations.RotatesDeliver : Prop :=
  (∀ (f : Designator) (d : Dest),
    decode (0b001101#6 ++ d.bit ++ f) = .instr (.rlf f d) ∧ decode (0b001100#6 ++ d.bit ++ f) = .instr (.rrf f d)) ∧
  (∀ (f : Designator) (d : Dest) (s : State), ∃ (v : Byte) (c : Bool),
    v.toNat + 256 * c.toNat = 2 * (s.memRead (s.ea f)).toNat + s.flagC.toNat ∧
    ∃ t, exec (.rlf f d) s = .next t ∧ Delivers s t (s.dest f d) v { c := some c }) ∧
  (∀ (f : Designator) (d : Dest) (s : State), ∃ (v : Byte) (c : Bool),
    2 * v.toNat + c.toNat = 256 * s.flagC.toNat + (s.memRead (s.ea f)).toNat ∧
    ∃ t, exec (.rrf f d) s = .next t ∧ Delivers s t (s.dest f d) v { c := some c })

/-- Nine successive `RLF f,1`, and two successive `SWAPF f,1`, on a general purpose register leave the register and C as
they were (rules R134, R137, corner cases). -/
def Obligations.NineRotatesAndTwoSwapsRestore : Prop :=
  ∀ (s : State) (f : Designator) (n : Nat), s.fileReg f = .gpr n →
    (∃ t, (fun o => match o with | Host.Outcome.next u => exec (.rlf f .file) u | r => r)^[9] (.next s) = .next t ∧
      Memory.read t.gpr n = Memory.read s.gpr n ∧ t.flagC = s.flagC) ∧
    (∃ t, (fun o => match o with | Host.Outcome.next u => exec (.swapf f .file) u | r => r)^[2] (.next s) = .next t ∧
      Memory.read t.gpr n = Memory.read s.gpr n)

/-- DECFSZ and INCFSZ (rules R127, R129), with their encodings: the result is delivered without a flag, and the next
instruction is skipped exactly when it is 0. With PCL as destination they stop as the rules say. What `Delivers` says of the prescaler and of the data
EEPROM's registers rests on log entries 13 and 6. -/
def Obligations.DecfszAndIncfszDeliverAndSkip : Prop :=
  (∀ (f : Designator) (d : Dest),
    decode (0b001011#6 ++ d.bit ++ f) = .instr (.decfsz f d) ∧ decode (0b001111#6 ++ d.bit ++ f) = .instr (.incfsz f d)) ∧
  (∀ (f : Designator) (d : Dest) (s : State), s.dest f d ≠ some .pcl →
    (∃ u, Delivers s u (s.dest f d) (BitVec.ofNat 8 ((s.memRead (s.ea f)).toNat + 255)) {} ∧
      exec (.decfsz f d) s = .next
        (if (s.memRead (s.ea f)).toNat = 1 then { u with pc := s.pc + 2#13, cycles := s.cycles + 2 } else u)) ∧
    (∃ u, Delivers s u (s.dest f d) (BitVec.ofNat 8 ((s.memRead (s.ea f)).toNat + 1)) {} ∧
      exec (.incfsz f d) s = .next
        (if (s.memRead (s.ea f)).toNat = 255 then { u with pc := s.pc + 2#13, cycles := s.cycles + 2 } else u))) ∧
  (∀ (f : Designator) (s : State), s.fileReg f = .pcl →
    exec (.decfsz f .file) s = .refused .skipOnPcl ∧ exec (.incfsz f .file) s = .refused .skipOnPcl)

/-- CLRW, NOP and MOVLW (rules R124, R133, R166), with every word that decodes to them: 0 to W with Z set; nothing; the
literal to W with no flag. -/
def Obligations.ClrwNopMovlwComplete : Prop :=
  (∀ x : BitVec 7, decode (0b0000010#7 ++ x) = .instr .clrw) ∧
  (∀ x : BitVec 2, decode (0b0000000#7 ++ x ++ 0b00000#5) = .instr .nop) ∧
  (∀ (x : BitVec 2) (k : Byte), decode (0b1100#4 ++ x ++ k) = .instr (.movlw k)) ∧
  (∀ (s : State) (k : Byte),
    (∃ t, exec .clrw s = .next t ∧ Delivers s t none 0x00#8 { z := some true }) ∧
    exec .nop s = .next { s with pc := BitVec.ofNat 13 (s.pc.toNat + 1), cycles := s.cycles + 1 } ∧
    (∃ t, exec (.movlw k) s = .next t ∧ Delivers s t none k {}))

/-- A computed jump (rules R29, R121): `ADDWF PCL, 1` reads the low byte of the next instruction's address, adds W modulo
256, and jumps there in the 256-word block PCLATH names; no carry reaches the high byte. Where the high bits come from is
the spec's decision D8. -/
def Obligations.ComputedJump : Prop :=
  ∀ (s : State) (f : Designator), s.fileReg f = .pcl →
    ∃ t, exec (.addwf f .file) s = .next t ∧
      t.pc.toNat = s.pclath.toNat * 256 + ((s.pc.toNat + 1) % 256 + s.w.toNat) % 256 ∧
      t.w = s.w ∧ t.pclath = s.pclath ∧ t.cycles = s.cycles + 2

/-! ## Bit-oriented instructions -/

/-- BCF and BSF (rules R151, R152), with their encodings: the whole byte is written back with one bit changed; no flag, and
nothing else, changes. What `Delivers` says of the prescaler and of the data
EEPROM's registers rests on log entries 13 and 6. -/
def Obligations.BcfAndBsfDeliver : Prop :=
  (∀ (f : Designator) (b : BitIndex),
    decode (0b0100#4 ++ b ++ f) = .instr (.bcf f b) ∧ decode (0b0101#4 ++ b ++ f) = .instr (.bsf f b)) ∧
  (∀ (f : Designator) (b : BitIndex) (s : State), ∃ v : Byte,
    (∀ i, i < 8 → v.getLsbD i = if i = b.toNat then false else (s.memRead (s.ea f)).getLsbD i) ∧
    ∃ t, exec (.bcf f b) s = .next t ∧ Delivers s t (some (s.fileReg f)) v {}) ∧
  (∀ (f : Designator) (b : BitIndex) (s : State), ∃ v : Byte,
    (∀ i, i < 8 → v.getLsbD i = if i = b.toNat then true else (s.memRead (s.ea f)).getLsbD i) ∧
    ∃ t, exec (.bsf f b) s = .next t ∧ Delivers s t (some (s.fileReg f)) v {})

/-- BTFSC and BTFSS (rules R153, R154), with their encodings: the next instruction is skipped when the bit is clear, or
set; nothing is written. -/
def Obligations.BtfscAndBtfssSkip : Prop :=
  (∀ (f : Designator) (b : BitIndex),
    decode (0b0110#4 ++ b ++ f) = .instr (.btfsc f b) ∧ decode (0b0111#4 ++ b ++ f) = .instr (.btfss f b)) ∧
  (∀ (f : Designator) (b : BitIndex) (s : State),
    exec (.btfsc f b) s = .next
      (if (s.memRead (s.ea f)).getLsbD b.toNat = false
        then { s with pc := BitVec.ofNat 13 (s.pc.toNat + 2), cycles := s.cycles + 2 }
        else { s with pc := BitVec.ofNat 13 (s.pc.toNat + 1), cycles := s.cycles + 1 }) ∧
    exec (.btfss f b) s = .next
      (if (s.memRead (s.ea f)).getLsbD b.toNat = true
        then { s with pc := BitVec.ofNat 13 (s.pc.toNat + 2), cycles := s.cycles + 2 }
        else { s with pc := BitVec.ofNat 13 (s.pc.toNat + 1), cycles := s.cycles + 1 }))

/-! ## Literal and control instructions -/

/-- ADDLW and SUBLW (rules R160, R171): the sum, and the literal minus W, go to W with C, DC and Z; nothing else changes. C
of the addition and DC are the spec's decision D9. -/
def Obligations.AddlwAndSublwDeliver : Prop :=
  ∀ (k : Byte) (s : State),
    (∃ t, exec (.addlw k) s = .next t ∧
      Delivers s t none (BitVec.ofNat 8 (s.w.toNat + k.toNat))
        { c := some (256 ≤ s.w.toNat + k.toNat), dc := some (16 ≤ s.w.toNat % 16 + k.toNat % 16)
          z := some ((s.w.toNat + k.toNat) % 256 = 0) }) ∧
    (∃ t, exec (.sublw k) s = .next t ∧
      Delivers s t none (BitVec.ofNat 8 (k.toNat + 256 - s.w.toNat))
        { c := some (s.w.toNat ≤ k.toNat), dc := some (s.w.toNat % 16 ≤ k.toNat % 16), z := some (s.w = k) })

/-- ANDLW, IORLW and XORLW (rules R161, R165, R172), with their encodings: the bitwise result goes to W, Z says whether it
is zero; nothing else changes. -/
def Obligations.LogicLiteralsDeliver : Prop :=
  (∀ k : Byte, decode (0b111001#6 ++ k) = .instr (.andlw k) ∧ decode (0b111000#6 ++ k) = .instr (.iorlw k) ∧
    decode (0b111010#6 ++ k) = .instr (.xorlw k)) ∧
  (∀ (k : Byte) (s : State), ∃ v, (∀ i, i < 8 → v.getLsbD i = (s.w.getLsbD i && k.getLsbD i)) ∧
    ∃ t, exec (.andlw k) s = .next t ∧ Delivers s t none v { z := some (v = 0#8) }) ∧
  (∀ (k : Byte) (s : State), ∃ v, (∀ i, i < 8 → v.getLsbD i = (s.w.getLsbD i || k.getLsbD i)) ∧
    ∃ t, exec (.iorlw k) s = .next t ∧ Delivers s t none v { z := some (v = 0#8) }) ∧
  (∀ (k : Byte) (s : State), ∃ v, (∀ i, i < 8 → v.getLsbD i = (s.w.getLsbD i != k.getLsbD i)) ∧
    ∃ t, exec (.xorlw k) s = .next t ∧ Delivers s t none v { z := some (v = 0#8) })

/-- GOTO (rule R164), with its encoding: `pc <- PCLATH[4:3] || k` in two cycles; the stack and everything else is as it
was. -/
def Obligations.GotoBranches : Prop :=
  (∀ k : BitVec 11, decode (0b101#3 ++ k) = .instr (.goto k)) ∧
  (∀ (k : BitVec 11) (s : State),
    exec (.goto k) s = .next
      { s with pc := BitVec.ofNat 13 (s.pclath.toNat / 8 * 2048 + k.toNat), cycles := s.cycles + 2 })

/-- CALL (rule R162), with its encoding: the address of the next instruction, modulo 8192, becomes the top of stack, every
older entry moves one place down (the oldest is lost), `pc <- PCLATH[4:3] || k` in two cycles; nothing else changes. -/
def Obligations.CallPushesAndBranches : Prop :=
  (∀ k : BitVec 11, decode (0b100#3 ++ k) = .instr (.call k)) ∧
  (∀ (k : BitVec 11) (s : State), ∃ t, exec (.call k) s = .next t ∧
    t.pc.toNat = s.pclath.toNat / 8 * 2048 + k.toNat ∧ t.tos.toNat = (s.pc.toNat + 1) % 8192 ∧ t.tosWritten = true ∧
    (∀ j, j < 7 → t.stackEntry (j + 1) = s.stackEntry j) ∧
    (∀ j, j ≠ s.sp.toNat → t.stackWritten.getLsbD j = s.stackWritten.getLsbD j) ∧
    t = { s with pc := t.pc, stack := t.stack, stackWritten := t.stackWritten, sp := s.sp + 1#3, cycles := s.cycles + 2 })

/-- RETURN, RETLW and RETFIE on a stack whose top slot was written since reset (rules R167 to R169): the top of stack goes
to the program counter and is removed; RETLW also loads W, RETFIE also sets GIE; nothing else changes. That a slot already
popped, written since reset, is read again and not refused is the spec's decision D2 as log entry 8 reads it (U7 words the
refusal more widely). -/
def Obligations.ReturnsPopTheStack : Prop :=
  ∀ s : State, s.tosWritten = true →
    exec .ret s = .next { s with pc := s.tos, sp := s.sp - 1#3, cycles := s.cycles + 2 } ∧
    (∀ k : Byte, exec (.retlw k) s = .next { s with w := k, pc := s.tos, sp := s.sp - 1#3, cycles := s.cycles + 2 }) ∧
    (∃ t, exec .retfie s = .next t ∧
      t = { s with intcon := t.intcon, pc := s.tos, sp := s.sp - 1#3, cycles := s.cycles + 2 } ∧
      t.gie = true ∧ ∀ i, i < 7 → t.intcon.getLsbD i = s.intcon.getLsbD i)

/-- A pop of a slot that holds no value written since reset stops (rule R32, the spec's decision D2). -/
def Obligations.ReturnsStopOnAnUnwrittenSlot : Prop :=
  ∀ (s : State) (k : Byte), s.tosWritten = false →
    exec .ret s = .refused .stackUnderflow ∧ exec (.retlw k) s = .refused .stackUnderflow ∧
    exec .retfie s = .refused .stackUnderflow

/-- Rules R30 and R31 over any number of pushes: the entries below the top are the last pushed addresses in reverse order,
eight of them; an older one is lost. Eight entries are the spec's decision D2. -/
def Obligations.TheStackKeepsTheLastEightPushes : Prop :=
  ∀ (s : State) (vs : List ProgAddr) (k : Nat), k < 8 → (h : k < vs.length) →
    (vs.foldl State.push s).stackEntry k = vs.reverse[k]'(by simpa using h)

/-- A RETURN right after a CALL comes back behind the CALL, with the stack pointer, W, STATUS, PCLATH and every other
register as before the CALL (rules R162, R169, R174). -/
def Obligations.CallThenReturnComesBack : Prop :=
  ∀ (s : State) (k : BitVec 11), ∃ t u, exec (.call k) s = .next t ∧ exec .ret t = .next u ∧
    u.pc = s.pc + 1#13 ∧ u = { s with pc := u.pc, stack := u.stack, stackWritten := u.stackWritten, cycles := s.cycles + 4 } ∧
    ∀ j, j < 7 → u.stackEntry j = s.stackEntry j

/-- CLRWDT and SLEEP (rules R163, R170): the watchdog's count is cleared, the prescaler's too when it is the watchdog's,
TO and PD are written, and SLEEP stops the core with `pc` at the next instruction. That the prescaler must be assigned to
the watchdog is the spec's decision D21. -/
def Obligations.ClrwdtAndSleepComplete : Prop :=
  ∀ s : State,
    (∃ t, exec .clrwdt s = .next t ∧ t.flagTO = true ∧ t.flagPD = true ∧ t.wdt = 0x00#8 ∧
      (s.optionReg.getLsbD 3 = true → t.psc = 0x00#8) ∧ (s.optionReg.getLsbD 3 = false → t.psc = s.psc) ∧
      (∀ i, i ≠ 3 → i ≠ 4 → t.status.getLsbD i = s.status.getLsbD i) ∧
      t = { s with status := t.status, wdt := t.wdt, psc := t.psc, pc := s.pc + 1#13, cycles := s.cycles + 1 }) ∧
    (s.pending = false → ∃ t, exec .sleep s = .next t ∧ t.flagTO = true ∧ t.flagPD = false ∧ t.wdt = 0x00#8 ∧
      (s.optionReg.getLsbD 3 = true → t.psc = 0x00#8) ∧ (s.optionReg.getLsbD 3 = false → t.psc = s.psc) ∧
      (∀ i, i ≠ 3 → i ≠ 4 → t.status.getLsbD i = s.status.getLsbD i) ∧ t.sleeping = true ∧
      t = { s with status := t.status, wdt := t.wdt, psc := t.psc, sleeping := true, pc := s.pc + 1#13,
                   cycles := s.cycles + 1 })

/-- SLEEP with an enabled interrupt pending stops (rule R206; the hypothesis spells out rule R195's `pending`). -/
def Obligations.SleepStopsWithAnInterruptPending : Prop :=
  ∀ s : State,
    ((s.intcon.getLsbD 1 = true ∧ s.intcon.getLsbD 4 = true) ∨ (s.intcon.getLsbD 2 = true ∧ s.intcon.getLsbD 5 = true) ∨
      (s.intcon.getLsbD 0 = true ∧ s.intcon.getLsbD 3 = true) ∨ (s.eecon1.getLsbD 4 = true ∧ s.intcon.getLsbD 6 = true)) →
    exec .sleep s = .refused .sleepWithPending

/-! ## OPTION and TRIS -/

/-- OPTION, TRIS 5 and TRIS 6 complete (rules R180, R181): W goes to the OPTION register, to TRISA's five bits, to TRISB,
whatever the bank; nothing else changes. TRIS 7 names no register and stops. Which register a TRIS operand names is the
spec's decision D19. That OPTION leaves the prescaler's count is the model's choice
(log entry 13; rule R180 does not decide it). -/
def Obligations.OptionAndTrisComplete : Prop :=
  ∀ s : State,
    exec .option s = .next { s with optionReg := s.w, pc := BitVec.ofNat 13 (s.pc.toNat + 1), cycles := s.cycles + 1 } ∧
    exec (.tris 5#3) s = .next
      { s with trisA := BitVec.ofNat 5 s.w.toNat, pc := BitVec.ofNat 13 (s.pc.toNat + 1), cycles := s.cycles + 1 } ∧
    exec (.tris 6#3) s = .next { s with trisB := s.w, pc := BitVec.ofNat 13 (s.pc.toNat + 1), cycles := s.cycles + 1 } ∧
    exec (.tris 7#3) s = .refused .trisNoSuchPort

/-- OPTION and TRIS do exactly what MOVWF does where its designator reaches the same register (rules R180, R181, R182). -/
def Obligations.OptionAndTrisAgreeWithMovwf : Prop :=
  ∀ (s : State) (f : Designator),
    (s.fileReg f = .optionReg → exec .option s = exec (.movwf f) s) ∧
    (s.fileReg f = .trisA → exec (.tris 5#3) s = exec (.movwf f) s) ∧
    (s.fileReg f = .trisB → exec (.tris 6#3) s = exec (.movwf f) s)

/-! ## Interrupts, sleep, resets, the environment -/

/-- Interrupt entry (rules R195 to R197): with GIE and a pending source at a boundary, AFTER the environment's move of that
boundary, of an awake core that has not just been woken and meets no reset, the step pushes the address of the next
instruction, clears GIE, goes to 0x0004, and changes nothing else. The mechanism is the spec's decision D12; that entry is not
delayed is the model's choice (log entry 9). -/
def Obligations.InterruptEntry : Prop :=
  ∀ s : State, s.moved.eventOutcome s.nextMove.event = none → s.sleeping = false → s.afterWake = false →
    s.moved.intcon.getLsbD 7 = true →
    ((s.moved.intcon.getLsbD 1 = true ∧ s.moved.intcon.getLsbD 4 = true) ∨
      (s.moved.intcon.getLsbD 2 = true ∧ s.moved.intcon.getLsbD 5 = true) ∨
      (s.moved.intcon.getLsbD 0 = true ∧ s.moved.intcon.getLsbD 3 = true) ∨
      (s.moved.eecon1.getLsbD 4 = true ∧ s.moved.intcon.getLsbD 6 = true)) →
    ∃ t, step s = .next t ∧ t.pc = 0x0004#13 ∧ t.tos = s.pc ∧ t.tosWritten = true ∧ t.gie = false ∧
      (∀ i, i < 7 → t.intcon.getLsbD i = s.moved.intcon.getLsbD i) ∧
      (∀ j, j < 7 → t.stackEntry (j + 1) = s.stackEntry j) ∧
      t = { s.moved with
            pc := t.pc, intcon := t.intcon, stack := t.stack, stackWritten := t.stackWritten, sp := s.sp + 1#3 }

/-- Entry followed by RETFIE comes back: the interrupted address in the program counter, GIE 1 again, the stack pointer and
every register but the cycle count as before the entry (rules R196, R199, R203). -/
def Obligations.RetfieUndoesInterruptEntry : Prop :=
  ∀ s : State, s.gie = true → ∃ t, exec .retfie s.takeInterrupt = .next t ∧
    t = { s with stack := t.stack, stackWritten := t.stackWritten, cycles := s.cycles + 2 } ∧
    ∀ j, j < 7 → t.stackEntry j = s.stackEntry j

/-- A sleeping core at a boundary that brings no reset and no time-out (rule R206, the spec's decision D23): it wakes exactly
when, AFTER the environment's move of that boundary, INT, RB change or EEPROM write has flag and enable both 1, whatever GIE
is; Timer0's flag does not wake it; TO and PD stay, and `pc` stays where SLEEP left it. That waking is a step of its own is
the model's choice (log entry 14). -/
def Obligations.SleepEndsOnlyByItsWakeUpSources : Prop :=
  ∀ s : State, s.moved.eventOutcome s.nextMove.event = none → s.sleeping = true →
    (((s.moved.intcon.getLsbD 1 = true ∧ s.moved.intcon.getLsbD 4 = true) ∨
      (s.moved.intcon.getLsbD 0 = true ∧ s.moved.intcon.getLsbD 3 = true) ∨
      (s.moved.eecon1.getLsbD 4 = true ∧ s.moved.intcon.getLsbD 6 = true)) →
      step s = .next { s.moved with pc := s.pc, status := s.status, sleeping := false, afterWake := true }) ∧
    (¬((s.moved.intcon.getLsbD 1 = true ∧ s.moved.intcon.getLsbD 4 = true) ∨
      (s.moved.intcon.getLsbD 0 = true ∧ s.moved.intcon.getLsbD 3 = true) ∨
      (s.moved.eecon1.getLsbD 4 = true ∧ s.moved.intcon.getLsbD 6 = true)) →
      step s = .next { s.moved with pc := s.pc, status := s.status, sleeping := true })

/-- After a wake-up by a source that this boundary's move raises, or that is pending already, the instruction after SLEEP
runs first, whatever GIE is, even with the interrupt requested; if it is requested once that instruction is complete, the next
step is the entry, which pushes the address that follows the instruction's completion (rules R196, R206, the spec's decision
D23). The second half: with GIE 1, a NOP after SLEEP and a quiet environment afterwards, the three steps happen (the EEPROM
source included). That waking is a step of its own is the model's choice (log entry 14), so is the entry's lack of delay (log
entry 9). -/
def Obligations.InstructionAfterSleepRunsBeforeEntry : Prop :=
  (∀ (s : State) (w : ProgWord) (i : Instr), s.moved.eventOutcome s.nextMove.event = none → s.sleeping = true →
    s.moved.wakePending = true → s.progRead s.pc = some w → decode w = .instr i →
    ∃ t, step s = .next t ∧ t.pc = s.pc ∧ t.sleeping = false ∧
      (t.moved.eventOutcome t.nextMove.event = none →
        step t = exec i t.moved.endWake ∧
        ∀ u, step t = .next u → u.sleeping = false → u.moved.eventOutcome u.nextMove.event = none →
          u.moved.request = true →
          ∃ v, step u = .next v ∧ v.pc = 0x0004#13 ∧ v.tos = u.pc ∧ v.gie = false)) ∧
  (∀ (s : State) (w : ProgWord), s.moved.eventOutcome s.nextMove.event = none → s.env.tail = [] → s.sleeping = true →
    s.moved.wakePending = true → s.gie = true → s.progRead s.pc = some w → decode w = .instr .nop →
    ∃ t u v, step s = .next t ∧ t.pc = s.pc ∧ step t = .next u ∧ u.pc = s.pc + 1#13 ∧ step u = .next v ∧
      v.pc = 0x0004#13 ∧ v.tos = s.pc + 1#13)

/-- The sleep invariant: no step leaves a sleeping core with an enabled interrupt pending. SLEEP stops in that case (rule
R206), the enable bits cannot change in SLEEP, a source that can arise there wakes the core, and Timer0 stands still (log entry
15). -/
def Obligations.EveryStepKeepsTheSleepInvariant : Prop :=
  ∀ s t : State, SleepInv s → step s = .next t → SleepInv t

/-- The sleep invariant holds at reset. -/
def Obligations.ResetHasTheSleepInvariant : Prop :=
  SleepInv State.reset

/-- A watchdog time-out (rules R50, R204, R206, R220): without an enabled watchdog it never occurs, and the step is that of the
same boundary without it; in SLEEP it wakes the core with TO 0 and no reset; while running it resets the device, every field
as the table's last column has it. The effects are the spec's decisions D21 and D25. Model's choices: PD 1 after the reset, from
R50 and R220 where R204 says PD unchanged (log entry 11); waking as a step of its own, and `afterWake` when a source is pending
as well (log entry 14); the bit `q` (log entry 18); the stack pointer at 0 (log entry 8); that the boundary's other moves act
first (log entry 17). -/
def Obligations.WatchdogTimeOut : Prop :=
  ∀ (s : State) (q : Bool), s.nextMove.event = some (.watchdog q) →
    (s.params.wdtEnabled = false → step s = step { s with env := { s.nextMove with event := none } :: s.env.tail }) ∧
    (s.params.wdtEnabled = true → s.sleeping = true → ∃ t, step s = .next t ∧ t.flagTO = false ∧ t.flagPD = s.flagPD ∧
      (∀ i, i ≠ 4 → t.status.getLsbD i = s.status.getLsbD i) ∧ t.pc = s.pc ∧
      t = { s.moved with status := t.status, sleeping := false, afterWake := s.moved.wakePending }) ∧
    (s.params.wdtEnabled = true → s.sleeping = false → ∃ t, step s = .next t ∧ t.flagTO = false ∧ t.flagPD = true ∧
      t.status.extractLsb' 5 3 = 0#3 ∧ t.status.extractLsb' 0 3 = s.status.extractLsb' 0 3 ∧
      (∀ i, 1 ≤ i → t.intcon.getLsbD i = false) ∧ t.intcon.getLsbD 0 = s.moved.intcon.getLsbD 0 ∧
      t.tosWritten = false ∧
      t = { s.moved with
            pc := 0x0000#13, pclath := 0#5, status := t.status, intcon := t.intcon, optionReg := 0xFF#8, trisA := 0x1F#5
            trisB := 0xFF#8, eecon1 := if q then 0b01000#5 else 0b00000#5, stackWritten := 0#8, sp := 0#3
            wdt := 0x00#8, psc := 0x00#8, sleeping := false, afterWake := false })

/-- An MCLR reset at a boundary (rules R50, R198, R205, R220), whatever interrupt is requested: the table's columns for MCLR
while running and while sleeping, every field: W, FSR, TMR0, the latches, EEDATA, EEADR, the general purpose registers and the
stack's slots keep what they hold after the boundary's move, and the stack counts as empty. The values are the spec's decision
D25. Model's choices: the bit `q` of EECON1 comes with the event (log entry 18), MCLR acts at boundaries only and the
boundary's other moves first (log entry 17), the stack pointer at 0 (log entry 8). -/
def Obligations.MclrReset : Prop :=
  ∀ (s : State) (q : Bool), s.nextMove.event = some (.mclr q) →
    ∃ t, step s = .next t ∧
      t.status.extractLsb' 5 3 = 0#3 ∧ t.status.extractLsb' 0 3 = s.status.extractLsb' 0 3 ∧
      (s.sleeping = false → t.flagTO = s.flagTO ∧ t.flagPD = s.flagPD) ∧
      (s.sleeping = true → t.flagTO = true ∧ t.flagPD = false) ∧
      (∀ i, 1 ≤ i → t.intcon.getLsbD i = false) ∧ t.intcon.getLsbD 0 = s.moved.intcon.getLsbD 0 ∧
      t.tosWritten = false ∧
      t = { s.moved with
            pc := 0x0000#13, pclath := 0#5, status := t.status, intcon := t.intcon, optionReg := 0xFF#8, trisA := 0x1F#5
            trisB := 0xFF#8, eecon1 := if q then 0b01000#5 else 0b00000#5, stackWritten := 0#8, sp := 0#3
            wdt := 0x00#8, psc := 0x00#8, sleeping := false, afterWake := false }

/-- A power-on reset (rules R50, R220): every row of the table's first column, whatever the state was: the fixed values, and
each `x` cell as the environment supplies it; a general purpose register holds the last byte the environment lists for it, and
one it does not list reads 0x00 (the model's choice, log entry 1). The stack's slots hold the bits the event supplies (log entry
1), and none holds a value a pop may read. The values are the spec's decision D25; that the stack pointer is 0 is log entry 8. -/
def Obligations.PowerOnReset : Prop :=
  ∀ (s : State) (x : PowerOnCells), s.nextMove.event = some (.powerOn x) →
    ∃ t, step s = .next t ∧ t.status.extractLsb' 3 5 = 0b00011#5 ∧ t.flagZ = x.z ∧ t.flagDC = x.dc ∧ t.flagC = x.c ∧
      (∀ i, 1 ≤ i → t.intcon.getLsbD i = false) ∧ t.intcon.getLsbD 0 = x.rbif ∧ t.tosWritten = false ∧
      (∀ n, 0x0C ≤ n → n ≤ s.params.gprLast →
        Memory.read t.gpr n = (((x.gpr.reverse.find? fun c => c.1 = n).map (·.2)).getD 0x00#8)) ∧
      t = { s.moved with
            pc := 0x0000#13, w := x.w, status := t.status, pclath := 0#5, intcon := t.intcon, optionReg := 0xFF#8
            trisA := 0x1F#5, trisB := 0xFF#8, fsr := x.fsr, tmr0 := x.tmr0, latchA := x.latchA, latchB := x.latchB
            eedata := x.eedata, eeadr := x.eeadr, eecon1 := if x.eecon1Bit3 then 0b01000#5 else 0b00000#5
            gpr := t.gpr, stack := x.stack, stackWritten := 0#8, sp := 0#3, wdt := 0x00#8, psc := 0x00#8
            sleeping := false, afterWake := false }

/-- The values of rule R50's power-on column that the table fixes hold at reset, EECON1's four fixed bits and the empty stack
included. They are the spec's decision D25. -/
def Obligations.ResetValues : Prop :=
  State.reset.pc = 0x0000#13 ∧ State.reset.status.extractLsb' 3 5 = 0b00011#5 ∧ State.reset.pclath = 0#5 ∧
  State.reset.intcon.extractLsb' 1 7 = 0#7 ∧ State.reset.optionReg = 0xFF#8 ∧ State.reset.trisA = 0x1F#5 ∧
  State.reset.trisB = 0xFF#8 ∧ State.reset.eecon1.getLsbD 4 = false ∧ State.reset.eecon1.extractLsb' 0 3 = 0#3 ∧
  State.reset.stackWritten = 0#8 ∧ State.reset.wdt = 0x00#8 ∧ State.reset.psc = 0x00#8 ∧
  State.reset.sleeping = false ∧ State.reset.gie = false ∧ State.reset.tosWritten = false

/-- The environment's moves (rule R68): they leave what the rule says they never change and the upper five bits of INTCON,
only ever set the three interrupt flags, and are otherwise free: TMR0, the levels that the pins of both ports show, and the
EEPROM registers can become anything, and any of the three flags can be set. That in SLEEP neither TMR0 nor the flag T0IF
changes is DEDUCED from rules R193 and R206 (log entry 15). -/
def Obligations.EnvironmentMovesAreBounded : Prop :=
  (∀ (s : State) (m : EnvMove), SameCore s (s.applyMove m) ∧
    (∀ i, 3 ≤ i → (s.applyMove m).intcon.getLsbD i = s.intcon.getLsbD i) ∧
    (∀ i, s.intcon.getLsbD i = true → (s.applyMove m).intcon.getLsbD i = true) ∧
    (s.sleeping = true → (s.applyMove m).tmr0 = s.tmr0 ∧ (s.applyMove m).intcon.getLsbD 2 = s.intcon.getLsbD 2)) ∧
  (∀ (s : State) (v b d e : Byte) (a c : BitVec 5), ∃ m : EnvMove, m.event = none ∧
    (s.sleeping = false → (s.applyMove m).tmr0 = v ∧ (s.applyMove m).intcon.getLsbD 2 = true) ∧
    (s.applyMove m).pinsA = a ∧ (s.applyMove m).pinsB = b ∧ (s.applyMove m).extA = a ∧ (s.applyMove m).extB = b ∧
    (s.applyMove m).eecon1 = c ∧ (s.applyMove m).eedata = d ∧ (s.applyMove m).eeadr = e ∧
    (s.applyMove m).intcon.extractLsb' 0 2 = 0b11#2) ∧
  (∀ (s : State) (t i r : Bool), s.sleeping = false → ∃ m : EnvMove, m.event = none ∧
    (s.applyMove m).intcon.getLsbD 2 = (s.intcon.getLsbD 2 || t) ∧
    (s.applyMove m).intcon.getLsbD 1 = (s.intcon.getLsbD 1 || i) ∧
    (s.applyMove m).intcon.getLsbD 0 = (s.intcon.getLsbD 0 || r))
end

