-- ==== Sys2Proof/Laws/State.lean ====
section
/-! SUPPORT. The fields of State after each update: one lemma per field per update, so that no later proof unfolds one. -/

namespace Sys2Proof.Machine

/-! ## State.advance -/

@[simp] theorem State.advance_w (s : State) : s.advance.w = s.w := rfl
@[simp] theorem State.advance_pc (s : State) : s.advance.pc = s.pc + 1#13 := rfl
@[simp] theorem State.advance_pclath (s : State) : s.advance.pclath = s.pclath := rfl
@[simp] theorem State.advance_status (s : State) : s.advance.status = s.status := rfl
@[simp] theorem State.advance_fsr (s : State) : s.advance.fsr = s.fsr := rfl
@[simp] theorem State.advance_intcon (s : State) : s.advance.intcon = s.intcon := rfl
@[simp] theorem State.advance_optionReg (s : State) : s.advance.optionReg = s.optionReg := rfl
@[simp] theorem State.advance_trisA (s : State) : s.advance.trisA = s.trisA := rfl
@[simp] theorem State.advance_trisB (s : State) : s.advance.trisB = s.trisB := rfl
@[simp] theorem State.advance_latchA (s : State) : s.advance.latchA = s.latchA := rfl
@[simp] theorem State.advance_latchB (s : State) : s.advance.latchB = s.latchB := rfl
@[simp] theorem State.advance_tmr0 (s : State) : s.advance.tmr0 = s.tmr0 := rfl
@[simp] theorem State.advance_eedata (s : State) : s.advance.eedata = s.eedata := rfl
@[simp] theorem State.advance_eeadr (s : State) : s.advance.eeadr = s.eeadr := rfl
@[simp] theorem State.advance_eecon1 (s : State) : s.advance.eecon1 = s.eecon1 := rfl
@[simp] theorem State.advance_gpr (s : State) : s.advance.gpr = s.gpr := rfl
@[simp] theorem State.advance_stack (s : State) : s.advance.stack = s.stack := rfl
@[simp] theorem State.advance_stackWritten (s : State) : s.advance.stackWritten = s.stackWritten := rfl
@[simp] theorem State.advance_sp (s : State) : s.advance.sp = s.sp := rfl
@[simp] theorem State.advance_wdt (s : State) : s.advance.wdt = s.wdt := rfl
@[simp] theorem State.advance_psc (s : State) : s.advance.psc = s.psc := rfl
@[simp] theorem State.advance_sleeping (s : State) : s.advance.sleeping = s.sleeping := rfl
@[simp] theorem State.advance_extA (s : State) : s.advance.extA = s.extA := rfl
@[simp] theorem State.advance_extB (s : State) : s.advance.extB = s.extB := rfl
@[simp] theorem State.advance_loadA (s : State) : s.advance.loadA = s.loadA := rfl
@[simp] theorem State.advance_loadB (s : State) : s.advance.loadB = s.loadB := rfl
@[simp] theorem State.advance_prog (s : State) : s.advance.prog = s.prog := rfl
@[simp] theorem State.advance_params (s : State) : s.advance.params = s.params := rfl
@[simp] theorem State.advance_env (s : State) : s.advance.env = s.env := rfl
@[simp] theorem State.advance_afterWake (s : State) : s.advance.afterWake = s.afterWake := rfl
@[simp] theorem State.advance_cycles (s : State) : s.advance.cycles = s.cycles + 1 := rfl

/-! ## State.jump -/

@[simp] theorem State.jump_w (s : State) (a : ProgAddr) : (s.jump a).w = s.w := rfl
@[simp] theorem State.jump_pc (s : State) (a : ProgAddr) : (s.jump a).pc = a := rfl
@[simp] theorem State.jump_pclath (s : State) (a : ProgAddr) : (s.jump a).pclath = s.pclath := rfl
@[simp] theorem State.jump_status (s : State) (a : ProgAddr) : (s.jump a).status = s.status := rfl
@[simp] theorem State.jump_fsr (s : State) (a : ProgAddr) : (s.jump a).fsr = s.fsr := rfl
@[simp] theorem State.jump_intcon (s : State) (a : ProgAddr) : (s.jump a).intcon = s.intcon := rfl
@[simp] theorem State.jump_optionReg (s : State) (a : ProgAddr) : (s.jump a).optionReg = s.optionReg := rfl
@[simp] theorem State.jump_trisA (s : State) (a : ProgAddr) : (s.jump a).trisA = s.trisA := rfl
@[simp] theorem State.jump_trisB (s : State) (a : ProgAddr) : (s.jump a).trisB = s.trisB := rfl
@[simp] theorem State.jump_latchA (s : State) (a : ProgAddr) : (s.jump a).latchA = s.latchA := rfl
@[simp] theorem State.jump_latchB (s : State) (a : ProgAddr) : (s.jump a).latchB = s.latchB := rfl
@[simp] theorem State.jump_tmr0 (s : State) (a : ProgAddr) : (s.jump a).tmr0 = s.tmr0 := rfl
@[simp] theorem State.jump_eedata (s : State) (a : ProgAddr) : (s.jump a).eedata = s.eedata := rfl
@[simp] theorem State.jump_eeadr (s : State) (a : ProgAddr) : (s.jump a).eeadr = s.eeadr := rfl
@[simp] theorem State.jump_eecon1 (s : State) (a : ProgAddr) : (s.jump a).eecon1 = s.eecon1 := rfl
@[simp] theorem State.jump_gpr (s : State) (a : ProgAddr) : (s.jump a).gpr = s.gpr := rfl
@[simp] theorem State.jump_stack (s : State) (a : ProgAddr) : (s.jump a).stack = s.stack := rfl
@[simp] theorem State.jump_stackWritten (s : State) (a : ProgAddr) : (s.jump a).stackWritten = s.stackWritten := rfl
@[simp] theorem State.jump_sp (s : State) (a : ProgAddr) : (s.jump a).sp = s.sp := rfl
@[simp] theorem State.jump_wdt (s : State) (a : ProgAddr) : (s.jump a).wdt = s.wdt := rfl
@[simp] theorem State.jump_psc (s : State) (a : ProgAddr) : (s.jump a).psc = s.psc := rfl
@[simp] theorem State.jump_sleeping (s : State) (a : ProgAddr) : (s.jump a).sleeping = s.sleeping := rfl
@[simp] theorem State.jump_extA (s : State) (a : ProgAddr) : (s.jump a).extA = s.extA := rfl
@[simp] theorem State.jump_extB (s : State) (a : ProgAddr) : (s.jump a).extB = s.extB := rfl
@[simp] theorem State.jump_loadA (s : State) (a : ProgAddr) : (s.jump a).loadA = s.loadA := rfl
@[simp] theorem State.jump_loadB (s : State) (a : ProgAddr) : (s.jump a).loadB = s.loadB := rfl
@[simp] theorem State.jump_prog (s : State) (a : ProgAddr) : (s.jump a).prog = s.prog := rfl
@[simp] theorem State.jump_params (s : State) (a : ProgAddr) : (s.jump a).params = s.params := rfl
@[simp] theorem State.jump_env (s : State) (a : ProgAddr) : (s.jump a).env = s.env := rfl
@[simp] theorem State.jump_afterWake (s : State) (a : ProgAddr) : (s.jump a).afterWake = s.afterWake := rfl
@[simp] theorem State.jump_cycles (s : State) (a : ProgAddr) : (s.jump a).cycles = s.cycles + 1 := rfl

/-! ## State.skip -/

@[simp] theorem State.skip_w (s : State) : s.skip.w = s.w := rfl
@[simp] theorem State.skip_pc (s : State) : s.skip.pc = s.pc + 1#13 := rfl
@[simp] theorem State.skip_pclath (s : State) : s.skip.pclath = s.pclath := rfl
@[simp] theorem State.skip_status (s : State) : s.skip.status = s.status := rfl
@[simp] theorem State.skip_fsr (s : State) : s.skip.fsr = s.fsr := rfl
@[simp] theorem State.skip_intcon (s : State) : s.skip.intcon = s.intcon := rfl
@[simp] theorem State.skip_optionReg (s : State) : s.skip.optionReg = s.optionReg := rfl
@[simp] theorem State.skip_trisA (s : State) : s.skip.trisA = s.trisA := rfl
@[simp] theorem State.skip_trisB (s : State) : s.skip.trisB = s.trisB := rfl
@[simp] theorem State.skip_latchA (s : State) : s.skip.latchA = s.latchA := rfl
@[simp] theorem State.skip_latchB (s : State) : s.skip.latchB = s.latchB := rfl
@[simp] theorem State.skip_tmr0 (s : State) : s.skip.tmr0 = s.tmr0 := rfl
@[simp] theorem State.skip_eedata (s : State) : s.skip.eedata = s.eedata := rfl
@[simp] theorem State.skip_eeadr (s : State) : s.skip.eeadr = s.eeadr := rfl
@[simp] theorem State.skip_eecon1 (s : State) : s.skip.eecon1 = s.eecon1 := rfl
@[simp] theorem State.skip_gpr (s : State) : s.skip.gpr = s.gpr := rfl
@[simp] theorem State.skip_stack (s : State) : s.skip.stack = s.stack := rfl
@[simp] theorem State.skip_stackWritten (s : State) : s.skip.stackWritten = s.stackWritten := rfl
@[simp] theorem State.skip_sp (s : State) : s.skip.sp = s.sp := rfl
@[simp] theorem State.skip_wdt (s : State) : s.skip.wdt = s.wdt := rfl
@[simp] theorem State.skip_psc (s : State) : s.skip.psc = s.psc := rfl
@[simp] theorem State.skip_sleeping (s : State) : s.skip.sleeping = s.sleeping := rfl
@[simp] theorem State.skip_extA (s : State) : s.skip.extA = s.extA := rfl
@[simp] theorem State.skip_extB (s : State) : s.skip.extB = s.extB := rfl
@[simp] theorem State.skip_loadA (s : State) : s.skip.loadA = s.loadA := rfl
@[simp] theorem State.skip_loadB (s : State) : s.skip.loadB = s.loadB := rfl
@[simp] theorem State.skip_prog (s : State) : s.skip.prog = s.prog := rfl
@[simp] theorem State.skip_params (s : State) : s.skip.params = s.params := rfl
@[simp] theorem State.skip_env (s : State) : s.skip.env = s.env := rfl
@[simp] theorem State.skip_afterWake (s : State) : s.skip.afterWake = s.afterWake := rfl
@[simp] theorem State.skip_cycles (s : State) : s.skip.cycles = s.cycles + 1 := rfl

/-! ## State.setW -/

@[simp] theorem State.setW_w (s : State) (v : Byte) : (s.setW v).w = v := rfl
@[simp] theorem State.setW_pc (s : State) (v : Byte) : (s.setW v).pc = s.pc := rfl
@[simp] theorem State.setW_pclath (s : State) (v : Byte) : (s.setW v).pclath = s.pclath := rfl
@[simp] theorem State.setW_status (s : State) (v : Byte) : (s.setW v).status = s.status := rfl
@[simp] theorem State.setW_fsr (s : State) (v : Byte) : (s.setW v).fsr = s.fsr := rfl
@[simp] theorem State.setW_intcon (s : State) (v : Byte) : (s.setW v).intcon = s.intcon := rfl
@[simp] theorem State.setW_optionReg (s : State) (v : Byte) : (s.setW v).optionReg = s.optionReg := rfl
@[simp] theorem State.setW_trisA (s : State) (v : Byte) : (s.setW v).trisA = s.trisA := rfl
@[simp] theorem State.setW_trisB (s : State) (v : Byte) : (s.setW v).trisB = s.trisB := rfl
@[simp] theorem State.setW_latchA (s : State) (v : Byte) : (s.setW v).latchA = s.latchA := rfl
@[simp] theorem State.setW_latchB (s : State) (v : Byte) : (s.setW v).latchB = s.latchB := rfl
@[simp] theorem State.setW_tmr0 (s : State) (v : Byte) : (s.setW v).tmr0 = s.tmr0 := rfl
@[simp] theorem State.setW_eedata (s : State) (v : Byte) : (s.setW v).eedata = s.eedata := rfl
@[simp] theorem State.setW_eeadr (s : State) (v : Byte) : (s.setW v).eeadr = s.eeadr := rfl
@[simp] theorem State.setW_eecon1 (s : State) (v : Byte) : (s.setW v).eecon1 = s.eecon1 := rfl
@[simp] theorem State.setW_gpr (s : State) (v : Byte) : (s.setW v).gpr = s.gpr := rfl
@[simp] theorem State.setW_stack (s : State) (v : Byte) : (s.setW v).stack = s.stack := rfl
@[simp] theorem State.setW_stackWritten (s : State) (v : Byte) : (s.setW v).stackWritten = s.stackWritten := rfl
@[simp] theorem State.setW_sp (s : State) (v : Byte) : (s.setW v).sp = s.sp := rfl
@[simp] theorem State.setW_wdt (s : State) (v : Byte) : (s.setW v).wdt = s.wdt := rfl
@[simp] theorem State.setW_psc (s : State) (v : Byte) : (s.setW v).psc = s.psc := rfl
@[simp] theorem State.setW_sleeping (s : State) (v : Byte) : (s.setW v).sleeping = s.sleeping := rfl
@[simp] theorem State.setW_extA (s : State) (v : Byte) : (s.setW v).extA = s.extA := rfl
@[simp] theorem State.setW_extB (s : State) (v : Byte) : (s.setW v).extB = s.extB := rfl
@[simp] theorem State.setW_loadA (s : State) (v : Byte) : (s.setW v).loadA = s.loadA := rfl
@[simp] theorem State.setW_loadB (s : State) (v : Byte) : (s.setW v).loadB = s.loadB := rfl
@[simp] theorem State.setW_prog (s : State) (v : Byte) : (s.setW v).prog = s.prog := rfl
@[simp] theorem State.setW_params (s : State) (v : Byte) : (s.setW v).params = s.params := rfl
@[simp] theorem State.setW_env (s : State) (v : Byte) : (s.setW v).env = s.env := rfl
@[simp] theorem State.setW_afterWake (s : State) (v : Byte) : (s.setW v).afterWake = s.afterWake := rfl
@[simp] theorem State.setW_cycles (s : State) (v : Byte) : (s.setW v).cycles = s.cycles := rfl

/-! ## State.setOption -/

@[simp] theorem State.setOption_w (s : State) (v : Byte) : (s.setOption v).w = s.w := rfl
@[simp] theorem State.setOption_pc (s : State) (v : Byte) : (s.setOption v).pc = s.pc := rfl
@[simp] theorem State.setOption_pclath (s : State) (v : Byte) : (s.setOption v).pclath = s.pclath := rfl
@[simp] theorem State.setOption_status (s : State) (v : Byte) : (s.setOption v).status = s.status := rfl
@[simp] theorem State.setOption_fsr (s : State) (v : Byte) : (s.setOption v).fsr = s.fsr := rfl
@[simp] theorem State.setOption_intcon (s : State) (v : Byte) : (s.setOption v).intcon = s.intcon := rfl
@[simp] theorem State.setOption_optionReg (s : State) (v : Byte) : (s.setOption v).optionReg = v := rfl
@[simp] theorem State.setOption_trisA (s : State) (v : Byte) : (s.setOption v).trisA = s.trisA := rfl
@[simp] theorem State.setOption_trisB (s : State) (v : Byte) : (s.setOption v).trisB = s.trisB := rfl
@[simp] theorem State.setOption_latchA (s : State) (v : Byte) : (s.setOption v).latchA = s.latchA := rfl
@[simp] theorem State.setOption_latchB (s : State) (v : Byte) : (s.setOption v).latchB = s.latchB := rfl
@[simp] theorem State.setOption_tmr0 (s : State) (v : Byte) : (s.setOption v).tmr0 = s.tmr0 := rfl
@[simp] theorem State.setOption_eedata (s : State) (v : Byte) : (s.setOption v).eedata = s.eedata := rfl
@[simp] theorem State.setOption_eeadr (s : State) (v : Byte) : (s.setOption v).eeadr = s.eeadr := rfl
@[simp] theorem State.setOption_eecon1 (s : State) (v : Byte) : (s.setOption v).eecon1 = s.eecon1 := rfl
@[simp] theorem State.setOption_gpr (s : State) (v : Byte) : (s.setOption v).gpr = s.gpr := rfl
@[simp] theorem State.setOption_stack (s : State) (v : Byte) : (s.setOption v).stack = s.stack := rfl
@[simp] theorem State.setOption_stackWritten (s : State) (v : Byte) : (s.setOption v).stackWritten = s.stackWritten := rfl
@[simp] theorem State.setOption_sp (s : State) (v : Byte) : (s.setOption v).sp = s.sp := rfl
@[simp] theorem State.setOption_wdt (s : State) (v : Byte) : (s.setOption v).wdt = s.wdt := rfl
@[simp] theorem State.setOption_psc (s : State) (v : Byte) : (s.setOption v).psc = s.psc := rfl
@[simp] theorem State.setOption_sleeping (s : State) (v : Byte) : (s.setOption v).sleeping = s.sleeping := rfl
@[simp] theorem State.setOption_extA (s : State) (v : Byte) : (s.setOption v).extA = s.extA := rfl
@[simp] theorem State.setOption_extB (s : State) (v : Byte) : (s.setOption v).extB = s.extB := rfl
@[simp] theorem State.setOption_loadA (s : State) (v : Byte) : (s.setOption v).loadA = s.loadA := rfl
@[simp] theorem State.setOption_loadB (s : State) (v : Byte) : (s.setOption v).loadB = s.loadB := rfl
@[simp] theorem State.setOption_prog (s : State) (v : Byte) : (s.setOption v).prog = s.prog := rfl
@[simp] theorem State.setOption_params (s : State) (v : Byte) : (s.setOption v).params = s.params := rfl
@[simp] theorem State.setOption_env (s : State) (v : Byte) : (s.setOption v).env = s.env := rfl
@[simp] theorem State.setOption_afterWake (s : State) (v : Byte) : (s.setOption v).afterWake = s.afterWake := rfl
@[simp] theorem State.setOption_cycles (s : State) (v : Byte) : (s.setOption v).cycles = s.cycles := rfl

/-! ## State.setTrisA -/

@[simp] theorem State.setTrisA_w (s : State) (v : Byte) : (s.setTrisA v).w = s.w := rfl
@[simp] theorem State.setTrisA_pc (s : State) (v : Byte) : (s.setTrisA v).pc = s.pc := rfl
@[simp] theorem State.setTrisA_pclath (s : State) (v : Byte) : (s.setTrisA v).pclath = s.pclath := rfl
@[simp] theorem State.setTrisA_status (s : State) (v : Byte) : (s.setTrisA v).status = s.status := rfl
@[simp] theorem State.setTrisA_fsr (s : State) (v : Byte) : (s.setTrisA v).fsr = s.fsr := rfl
@[simp] theorem State.setTrisA_intcon (s : State) (v : Byte) : (s.setTrisA v).intcon = s.intcon := rfl
@[simp] theorem State.setTrisA_optionReg (s : State) (v : Byte) : (s.setTrisA v).optionReg = s.optionReg := rfl
@[simp] theorem State.setTrisA_trisA (s : State) (v : Byte) : (s.setTrisA v).trisA = v.setWidth 5 := rfl
@[simp] theorem State.setTrisA_trisB (s : State) (v : Byte) : (s.setTrisA v).trisB = s.trisB := rfl
@[simp] theorem State.setTrisA_latchA (s : State) (v : Byte) : (s.setTrisA v).latchA = s.latchA := rfl
@[simp] theorem State.setTrisA_latchB (s : State) (v : Byte) : (s.setTrisA v).latchB = s.latchB := rfl
@[simp] theorem State.setTrisA_tmr0 (s : State) (v : Byte) : (s.setTrisA v).tmr0 = s.tmr0 := rfl
@[simp] theorem State.setTrisA_eedata (s : State) (v : Byte) : (s.setTrisA v).eedata = s.eedata := rfl
@[simp] theorem State.setTrisA_eeadr (s : State) (v : Byte) : (s.setTrisA v).eeadr = s.eeadr := rfl
@[simp] theorem State.setTrisA_eecon1 (s : State) (v : Byte) : (s.setTrisA v).eecon1 = s.eecon1 := rfl
@[simp] theorem State.setTrisA_gpr (s : State) (v : Byte) : (s.setTrisA v).gpr = s.gpr := rfl
@[simp] theorem State.setTrisA_stack (s : State) (v : Byte) : (s.setTrisA v).stack = s.stack := rfl
@[simp] theorem State.setTrisA_stackWritten (s : State) (v : Byte) : (s.setTrisA v).stackWritten = s.stackWritten := rfl
@[simp] theorem State.setTrisA_sp (s : State) (v : Byte) : (s.setTrisA v).sp = s.sp := rfl
@[simp] theorem State.setTrisA_wdt (s : State) (v : Byte) : (s.setTrisA v).wdt = s.wdt := rfl
@[simp] theorem State.setTrisA_psc (s : State) (v : Byte) : (s.setTrisA v).psc = s.psc := rfl
@[simp] theorem State.setTrisA_sleeping (s : State) (v : Byte) : (s.setTrisA v).sleeping = s.sleeping := rfl
@[simp] theorem State.setTrisA_extA (s : State) (v : Byte) : (s.setTrisA v).extA = s.extA := rfl
@[simp] theorem State.setTrisA_extB (s : State) (v : Byte) : (s.setTrisA v).extB = s.extB := rfl
@[simp] theorem State.setTrisA_loadA (s : State) (v : Byte) : (s.setTrisA v).loadA = s.loadA := rfl
@[simp] theorem State.setTrisA_loadB (s : State) (v : Byte) : (s.setTrisA v).loadB = s.loadB := rfl
@[simp] theorem State.setTrisA_prog (s : State) (v : Byte) : (s.setTrisA v).prog = s.prog := rfl
@[simp] theorem State.setTrisA_params (s : State) (v : Byte) : (s.setTrisA v).params = s.params := rfl
@[simp] theorem State.setTrisA_env (s : State) (v : Byte) : (s.setTrisA v).env = s.env := rfl
@[simp] theorem State.setTrisA_afterWake (s : State) (v : Byte) : (s.setTrisA v).afterWake = s.afterWake := rfl
@[simp] theorem State.setTrisA_cycles (s : State) (v : Byte) : (s.setTrisA v).cycles = s.cycles := rfl

/-! ## State.setTrisB -/

@[simp] theorem State.setTrisB_w (s : State) (v : Byte) : (s.setTrisB v).w = s.w := rfl
@[simp] theorem State.setTrisB_pc (s : State) (v : Byte) : (s.setTrisB v).pc = s.pc := rfl
@[simp] theorem State.setTrisB_pclath (s : State) (v : Byte) : (s.setTrisB v).pclath = s.pclath := rfl
@[simp] theorem State.setTrisB_status (s : State) (v : Byte) : (s.setTrisB v).status = s.status := rfl
@[simp] theorem State.setTrisB_fsr (s : State) (v : Byte) : (s.setTrisB v).fsr = s.fsr := rfl
@[simp] theorem State.setTrisB_intcon (s : State) (v : Byte) : (s.setTrisB v).intcon = s.intcon := rfl
@[simp] theorem State.setTrisB_optionReg (s : State) (v : Byte) : (s.setTrisB v).optionReg = s.optionReg := rfl
@[simp] theorem State.setTrisB_trisA (s : State) (v : Byte) : (s.setTrisB v).trisA = s.trisA := rfl
@[simp] theorem State.setTrisB_trisB (s : State) (v : Byte) : (s.setTrisB v).trisB = v := rfl
@[simp] theorem State.setTrisB_latchA (s : State) (v : Byte) : (s.setTrisB v).latchA = s.latchA := rfl
@[simp] theorem State.setTrisB_latchB (s : State) (v : Byte) : (s.setTrisB v).latchB = s.latchB := rfl
@[simp] theorem State.setTrisB_tmr0 (s : State) (v : Byte) : (s.setTrisB v).tmr0 = s.tmr0 := rfl
@[simp] theorem State.setTrisB_eedata (s : State) (v : Byte) : (s.setTrisB v).eedata = s.eedata := rfl
@[simp] theorem State.setTrisB_eeadr (s : State) (v : Byte) : (s.setTrisB v).eeadr = s.eeadr := rfl
@[simp] theorem State.setTrisB_eecon1 (s : State) (v : Byte) : (s.setTrisB v).eecon1 = s.eecon1 := rfl
@[simp] theorem State.setTrisB_gpr (s : State) (v : Byte) : (s.setTrisB v).gpr = s.gpr := rfl
@[simp] theorem State.setTrisB_stack (s : State) (v : Byte) : (s.setTrisB v).stack = s.stack := rfl
@[simp] theorem State.setTrisB_stackWritten (s : State) (v : Byte) : (s.setTrisB v).stackWritten = s.stackWritten := rfl
@[simp] theorem State.setTrisB_sp (s : State) (v : Byte) : (s.setTrisB v).sp = s.sp := rfl
@[simp] theorem State.setTrisB_wdt (s : State) (v : Byte) : (s.setTrisB v).wdt = s.wdt := rfl
@[simp] theorem State.setTrisB_psc (s : State) (v : Byte) : (s.setTrisB v).psc = s.psc := rfl
@[simp] theorem State.setTrisB_sleeping (s : State) (v : Byte) : (s.setTrisB v).sleeping = s.sleeping := rfl
@[simp] theorem State.setTrisB_extA (s : State) (v : Byte) : (s.setTrisB v).extA = s.extA := rfl
@[simp] theorem State.setTrisB_extB (s : State) (v : Byte) : (s.setTrisB v).extB = s.extB := rfl
@[simp] theorem State.setTrisB_loadA (s : State) (v : Byte) : (s.setTrisB v).loadA = s.loadA := rfl
@[simp] theorem State.setTrisB_loadB (s : State) (v : Byte) : (s.setTrisB v).loadB = s.loadB := rfl
@[simp] theorem State.setTrisB_prog (s : State) (v : Byte) : (s.setTrisB v).prog = s.prog := rfl
@[simp] theorem State.setTrisB_params (s : State) (v : Byte) : (s.setTrisB v).params = s.params := rfl
@[simp] theorem State.setTrisB_env (s : State) (v : Byte) : (s.setTrisB v).env = s.env := rfl
@[simp] theorem State.setTrisB_afterWake (s : State) (v : Byte) : (s.setTrisB v).afterWake = s.afterWake := rfl
@[simp] theorem State.setTrisB_cycles (s : State) (v : Byte) : (s.setTrisB v).cycles = s.cycles := rfl

/-! ## State.fallAsleep -/

@[simp] theorem State.fallAsleep_w (s : State) : s.fallAsleep.w = s.w := rfl
@[simp] theorem State.fallAsleep_pc (s : State) : s.fallAsleep.pc = s.pc := rfl
@[simp] theorem State.fallAsleep_pclath (s : State) : s.fallAsleep.pclath = s.pclath := rfl
@[simp] theorem State.fallAsleep_status (s : State) : s.fallAsleep.status = s.status := rfl
@[simp] theorem State.fallAsleep_fsr (s : State) : s.fallAsleep.fsr = s.fsr := rfl
@[simp] theorem State.fallAsleep_intcon (s : State) : s.fallAsleep.intcon = s.intcon := rfl
@[simp] theorem State.fallAsleep_optionReg (s : State) : s.fallAsleep.optionReg = s.optionReg := rfl
@[simp] theorem State.fallAsleep_trisA (s : State) : s.fallAsleep.trisA = s.trisA := rfl
@[simp] theorem State.fallAsleep_trisB (s : State) : s.fallAsleep.trisB = s.trisB := rfl
@[simp] theorem State.fallAsleep_latchA (s : State) : s.fallAsleep.latchA = s.latchA := rfl
@[simp] theorem State.fallAsleep_latchB (s : State) : s.fallAsleep.latchB = s.latchB := rfl
@[simp] theorem State.fallAsleep_tmr0 (s : State) : s.fallAsleep.tmr0 = s.tmr0 := rfl
@[simp] theorem State.fallAsleep_eedata (s : State) : s.fallAsleep.eedata = s.eedata := rfl
@[simp] theorem State.fallAsleep_eeadr (s : State) : s.fallAsleep.eeadr = s.eeadr := rfl
@[simp] theorem State.fallAsleep_eecon1 (s : State) : s.fallAsleep.eecon1 = s.eecon1 := rfl
@[simp] theorem State.fallAsleep_gpr (s : State) : s.fallAsleep.gpr = s.gpr := rfl
@[simp] theorem State.fallAsleep_stack (s : State) : s.fallAsleep.stack = s.stack := rfl
@[simp] theorem State.fallAsleep_stackWritten (s : State) : s.fallAsleep.stackWritten = s.stackWritten := rfl
@[simp] theorem State.fallAsleep_sp (s : State) : s.fallAsleep.sp = s.sp := rfl
@[simp] theorem State.fallAsleep_wdt (s : State) : s.fallAsleep.wdt = s.wdt := rfl
@[simp] theorem State.fallAsleep_psc (s : State) : s.fallAsleep.psc = s.psc := rfl
@[simp] theorem State.fallAsleep_sleeping (s : State) : s.fallAsleep.sleeping = true := rfl
@[simp] theorem State.fallAsleep_extA (s : State) : s.fallAsleep.extA = s.extA := rfl
@[simp] theorem State.fallAsleep_extB (s : State) : s.fallAsleep.extB = s.extB := rfl
@[simp] theorem State.fallAsleep_loadA (s : State) : s.fallAsleep.loadA = s.loadA := rfl
@[simp] theorem State.fallAsleep_loadB (s : State) : s.fallAsleep.loadB = s.loadB := rfl
@[simp] theorem State.fallAsleep_prog (s : State) : s.fallAsleep.prog = s.prog := rfl
@[simp] theorem State.fallAsleep_params (s : State) : s.fallAsleep.params = s.params := rfl
@[simp] theorem State.fallAsleep_env (s : State) : s.fallAsleep.env = s.env := rfl
@[simp] theorem State.fallAsleep_afterWake (s : State) : s.fallAsleep.afterWake = s.afterWake := rfl
@[simp] theorem State.fallAsleep_cycles (s : State) : s.fallAsleep.cycles = s.cycles := rfl

/-! ## State.setFlags -/

@[simp] theorem State.setFlags_w (s : State) (u : FlagUpdate) : (s.setFlags u).w = s.w := rfl
@[simp] theorem State.setFlags_pc (s : State) (u : FlagUpdate) : (s.setFlags u).pc = s.pc := rfl
@[simp] theorem State.setFlags_pclath (s : State) (u : FlagUpdate) : (s.setFlags u).pclath = s.pclath := rfl
@[simp] theorem State.setFlags_status (s : State) (u : FlagUpdate) : (s.setFlags u).status = updateBit (updateBit (updateBit s.status 0 u.c) 1 u.dc) 2 u.z := rfl
@[simp] theorem State.setFlags_fsr (s : State) (u : FlagUpdate) : (s.setFlags u).fsr = s.fsr := rfl
@[simp] theorem State.setFlags_intcon (s : State) (u : FlagUpdate) : (s.setFlags u).intcon = s.intcon := rfl
@[simp] theorem State.setFlags_optionReg (s : State) (u : FlagUpdate) : (s.setFlags u).optionReg = s.optionReg := rfl
@[simp] theorem State.setFlags_trisA (s : State) (u : FlagUpdate) : (s.setFlags u).trisA = s.trisA := rfl
@[simp] theorem State.setFlags_trisB (s : State) (u : FlagUpdate) : (s.setFlags u).trisB = s.trisB := rfl
@[simp] theorem State.setFlags_latchA (s : State) (u : FlagUpdate) : (s.setFlags u).latchA = s.latchA := rfl
@[simp] theorem State.setFlags_latchB (s : State) (u : FlagUpdate) : (s.setFlags u).latchB = s.latchB := rfl
@[simp] theorem State.setFlags_tmr0 (s : State) (u : FlagUpdate) : (s.setFlags u).tmr0 = s.tmr0 := rfl
@[simp] theorem State.setFlags_eedata (s : State) (u : FlagUpdate) : (s.setFlags u).eedata = s.eedata := rfl
@[simp] theorem State.setFlags_eeadr (s : State) (u : FlagUpdate) : (s.setFlags u).eeadr = s.eeadr := rfl
@[simp] theorem State.setFlags_eecon1 (s : State) (u : FlagUpdate) : (s.setFlags u).eecon1 = s.eecon1 := rfl
@[simp] theorem State.setFlags_gpr (s : State) (u : FlagUpdate) : (s.setFlags u).gpr = s.gpr := rfl
@[simp] theorem State.setFlags_stack (s : State) (u : FlagUpdate) : (s.setFlags u).stack = s.stack := rfl
@[simp] theorem State.setFlags_stackWritten (s : State) (u : FlagUpdate) : (s.setFlags u).stackWritten = s.stackWritten := rfl
@[simp] theorem State.setFlags_sp (s : State) (u : FlagUpdate) : (s.setFlags u).sp = s.sp := rfl
@[simp] theorem State.setFlags_wdt (s : State) (u : FlagUpdate) : (s.setFlags u).wdt = s.wdt := rfl
@[simp] theorem State.setFlags_psc (s : State) (u : FlagUpdate) : (s.setFlags u).psc = s.psc := rfl
@[simp] theorem State.setFlags_sleeping (s : State) (u : FlagUpdate) : (s.setFlags u).sleeping = s.sleeping := rfl
@[simp] theorem State.setFlags_extA (s : State) (u : FlagUpdate) : (s.setFlags u).extA = s.extA := rfl
@[simp] theorem State.setFlags_extB (s : State) (u : FlagUpdate) : (s.setFlags u).extB = s.extB := rfl
@[simp] theorem State.setFlags_loadA (s : State) (u : FlagUpdate) : (s.setFlags u).loadA = s.loadA := rfl
@[simp] theorem State.setFlags_loadB (s : State) (u : FlagUpdate) : (s.setFlags u).loadB = s.loadB := rfl
@[simp] theorem State.setFlags_prog (s : State) (u : FlagUpdate) : (s.setFlags u).prog = s.prog := rfl
@[simp] theorem State.setFlags_params (s : State) (u : FlagUpdate) : (s.setFlags u).params = s.params := rfl
@[simp] theorem State.setFlags_env (s : State) (u : FlagUpdate) : (s.setFlags u).env = s.env := rfl
@[simp] theorem State.setFlags_afterWake (s : State) (u : FlagUpdate) : (s.setFlags u).afterWake = s.afterWake := rfl
@[simp] theorem State.setFlags_cycles (s : State) (u : FlagUpdate) : (s.setFlags u).cycles = s.cycles := rfl

/-! ## State.setTOPD -/

@[simp] theorem State.setTOPD_w (s : State) (a b : Bool) : (s.setTOPD a b).w = s.w := rfl
@[simp] theorem State.setTOPD_pc (s : State) (a b : Bool) : (s.setTOPD a b).pc = s.pc := rfl
@[simp] theorem State.setTOPD_pclath (s : State) (a b : Bool) : (s.setTOPD a b).pclath = s.pclath := rfl
@[simp] theorem State.setTOPD_status (s : State) (a b : Bool) : (s.setTOPD a b).status = withBit (withBit s.status 4 a) 3 b := rfl
@[simp] theorem State.setTOPD_fsr (s : State) (a b : Bool) : (s.setTOPD a b).fsr = s.fsr := rfl
@[simp] theorem State.setTOPD_intcon (s : State) (a b : Bool) : (s.setTOPD a b).intcon = s.intcon := rfl
@[simp] theorem State.setTOPD_optionReg (s : State) (a b : Bool) : (s.setTOPD a b).optionReg = s.optionReg := rfl
@[simp] theorem State.setTOPD_trisA (s : State) (a b : Bool) : (s.setTOPD a b).trisA = s.trisA := rfl
@[simp] theorem State.setTOPD_trisB (s : State) (a b : Bool) : (s.setTOPD a b).trisB = s.trisB := rfl
@[simp] theorem State.setTOPD_latchA (s : State) (a b : Bool) : (s.setTOPD a b).latchA = s.latchA := rfl
@[simp] theorem State.setTOPD_latchB (s : State) (a b : Bool) : (s.setTOPD a b).latchB = s.latchB := rfl
@[simp] theorem State.setTOPD_tmr0 (s : State) (a b : Bool) : (s.setTOPD a b).tmr0 = s.tmr0 := rfl
@[simp] theorem State.setTOPD_eedata (s : State) (a b : Bool) : (s.setTOPD a b).eedata = s.eedata := rfl
@[simp] theorem State.setTOPD_eeadr (s : State) (a b : Bool) : (s.setTOPD a b).eeadr = s.eeadr := rfl
@[simp] theorem State.setTOPD_eecon1 (s : State) (a b : Bool) : (s.setTOPD a b).eecon1 = s.eecon1 := rfl
@[simp] theorem State.setTOPD_gpr (s : State) (a b : Bool) : (s.setTOPD a b).gpr = s.gpr := rfl
@[simp] theorem State.setTOPD_stack (s : State) (a b : Bool) : (s.setTOPD a b).stack = s.stack := rfl
@[simp] theorem State.setTOPD_stackWritten (s : State) (a b : Bool) : (s.setTOPD a b).stackWritten = s.stackWritten := rfl
@[simp] theorem State.setTOPD_sp (s : State) (a b : Bool) : (s.setTOPD a b).sp = s.sp := rfl
@[simp] theorem State.setTOPD_wdt (s : State) (a b : Bool) : (s.setTOPD a b).wdt = s.wdt := rfl
@[simp] theorem State.setTOPD_psc (s : State) (a b : Bool) : (s.setTOPD a b).psc = s.psc := rfl
@[simp] theorem State.setTOPD_sleeping (s : State) (a b : Bool) : (s.setTOPD a b).sleeping = s.sleeping := rfl
@[simp] theorem State.setTOPD_extA (s : State) (a b : Bool) : (s.setTOPD a b).extA = s.extA := rfl
@[simp] theorem State.setTOPD_extB (s : State) (a b : Bool) : (s.setTOPD a b).extB = s.extB := rfl
@[simp] theorem State.setTOPD_loadA (s : State) (a b : Bool) : (s.setTOPD a b).loadA = s.loadA := rfl
@[simp] theorem State.setTOPD_loadB (s : State) (a b : Bool) : (s.setTOPD a b).loadB = s.loadB := rfl
@[simp] theorem State.setTOPD_prog (s : State) (a b : Bool) : (s.setTOPD a b).prog = s.prog := rfl
@[simp] theorem State.setTOPD_params (s : State) (a b : Bool) : (s.setTOPD a b).params = s.params := rfl
@[simp] theorem State.setTOPD_env (s : State) (a b : Bool) : (s.setTOPD a b).env = s.env := rfl
@[simp] theorem State.setTOPD_afterWake (s : State) (a b : Bool) : (s.setTOPD a b).afterWake = s.afterWake := rfl
@[simp] theorem State.setTOPD_cycles (s : State) (a b : Bool) : (s.setTOPD a b).cycles = s.cycles := rfl

/-! ## State.writeTmr0 -/

@[simp] theorem State.writeTmr0_w (s : State) (v : Byte) : (s.writeTmr0 v).w = s.w := rfl
@[simp] theorem State.writeTmr0_pc (s : State) (v : Byte) : (s.writeTmr0 v).pc = s.pc := rfl
@[simp] theorem State.writeTmr0_pclath (s : State) (v : Byte) : (s.writeTmr0 v).pclath = s.pclath := rfl
@[simp] theorem State.writeTmr0_status (s : State) (v : Byte) : (s.writeTmr0 v).status = s.status := rfl
@[simp] theorem State.writeTmr0_fsr (s : State) (v : Byte) : (s.writeTmr0 v).fsr = s.fsr := rfl
@[simp] theorem State.writeTmr0_intcon (s : State) (v : Byte) : (s.writeTmr0 v).intcon = s.intcon := rfl
@[simp] theorem State.writeTmr0_optionReg (s : State) (v : Byte) : (s.writeTmr0 v).optionReg = s.optionReg := rfl
@[simp] theorem State.writeTmr0_trisA (s : State) (v : Byte) : (s.writeTmr0 v).trisA = s.trisA := rfl
@[simp] theorem State.writeTmr0_trisB (s : State) (v : Byte) : (s.writeTmr0 v).trisB = s.trisB := rfl
@[simp] theorem State.writeTmr0_latchA (s : State) (v : Byte) : (s.writeTmr0 v).latchA = s.latchA := rfl
@[simp] theorem State.writeTmr0_latchB (s : State) (v : Byte) : (s.writeTmr0 v).latchB = s.latchB := rfl
@[simp] theorem State.writeTmr0_tmr0 (s : State) (v : Byte) : (s.writeTmr0 v).tmr0 = v := rfl
@[simp] theorem State.writeTmr0_eedata (s : State) (v : Byte) : (s.writeTmr0 v).eedata = s.eedata := rfl
@[simp] theorem State.writeTmr0_eeadr (s : State) (v : Byte) : (s.writeTmr0 v).eeadr = s.eeadr := rfl
@[simp] theorem State.writeTmr0_eecon1 (s : State) (v : Byte) : (s.writeTmr0 v).eecon1 = s.eecon1 := rfl
@[simp] theorem State.writeTmr0_gpr (s : State) (v : Byte) : (s.writeTmr0 v).gpr = s.gpr := rfl
@[simp] theorem State.writeTmr0_stack (s : State) (v : Byte) : (s.writeTmr0 v).stack = s.stack := rfl
@[simp] theorem State.writeTmr0_stackWritten (s : State) (v : Byte) : (s.writeTmr0 v).stackWritten = s.stackWritten := rfl
@[simp] theorem State.writeTmr0_sp (s : State) (v : Byte) : (s.writeTmr0 v).sp = s.sp := rfl
@[simp] theorem State.writeTmr0_wdt (s : State) (v : Byte) : (s.writeTmr0 v).wdt = s.wdt := rfl
@[simp] theorem State.writeTmr0_psc (s : State) (v : Byte) : (s.writeTmr0 v).psc = if s.prescalerOnWdt then s.psc else 0x00#8 := rfl
@[simp] theorem State.writeTmr0_sleeping (s : State) (v : Byte) : (s.writeTmr0 v).sleeping = s.sleeping := rfl
@[simp] theorem State.writeTmr0_extA (s : State) (v : Byte) : (s.writeTmr0 v).extA = s.extA := rfl
@[simp] theorem State.writeTmr0_extB (s : State) (v : Byte) : (s.writeTmr0 v).extB = s.extB := rfl
@[simp] theorem State.writeTmr0_loadA (s : State) (v : Byte) : (s.writeTmr0 v).loadA = s.loadA := rfl
@[simp] theorem State.writeTmr0_loadB (s : State) (v : Byte) : (s.writeTmr0 v).loadB = s.loadB := rfl
@[simp] theorem State.writeTmr0_prog (s : State) (v : Byte) : (s.writeTmr0 v).prog = s.prog := rfl
@[simp] theorem State.writeTmr0_params (s : State) (v : Byte) : (s.writeTmr0 v).params = s.params := rfl
@[simp] theorem State.writeTmr0_env (s : State) (v : Byte) : (s.writeTmr0 v).env = s.env := rfl
@[simp] theorem State.writeTmr0_afterWake (s : State) (v : Byte) : (s.writeTmr0 v).afterWake = s.afterWake := rfl
@[simp] theorem State.writeTmr0_cycles (s : State) (v : Byte) : (s.writeTmr0 v).cycles = s.cycles := rfl

/-! ## State.push -/

@[simp] theorem State.push_w (s : State) (v : ProgAddr) : (s.push v).w = s.w := rfl
@[simp] theorem State.push_pc (s : State) (v : ProgAddr) : (s.push v).pc = s.pc := rfl
@[simp] theorem State.push_pclath (s : State) (v : ProgAddr) : (s.push v).pclath = s.pclath := rfl
@[simp] theorem State.push_status (s : State) (v : ProgAddr) : (s.push v).status = s.status := rfl
@[simp] theorem State.push_fsr (s : State) (v : ProgAddr) : (s.push v).fsr = s.fsr := rfl
@[simp] theorem State.push_intcon (s : State) (v : ProgAddr) : (s.push v).intcon = s.intcon := rfl
@[simp] theorem State.push_optionReg (s : State) (v : ProgAddr) : (s.push v).optionReg = s.optionReg := rfl
@[simp] theorem State.push_trisA (s : State) (v : ProgAddr) : (s.push v).trisA = s.trisA := rfl
@[simp] theorem State.push_trisB (s : State) (v : ProgAddr) : (s.push v).trisB = s.trisB := rfl
@[simp] theorem State.push_latchA (s : State) (v : ProgAddr) : (s.push v).latchA = s.latchA := rfl
@[simp] theorem State.push_latchB (s : State) (v : ProgAddr) : (s.push v).latchB = s.latchB := rfl
@[simp] theorem State.push_tmr0 (s : State) (v : ProgAddr) : (s.push v).tmr0 = s.tmr0 := rfl
@[simp] theorem State.push_eedata (s : State) (v : ProgAddr) : (s.push v).eedata = s.eedata := rfl
@[simp] theorem State.push_eeadr (s : State) (v : ProgAddr) : (s.push v).eeadr = s.eeadr := rfl
@[simp] theorem State.push_eecon1 (s : State) (v : ProgAddr) : (s.push v).eecon1 = s.eecon1 := rfl
@[simp] theorem State.push_gpr (s : State) (v : ProgAddr) : (s.push v).gpr = s.gpr := rfl
@[simp] theorem State.push_stack (s : State) (v : ProgAddr) : (s.push v).stack = s.stack.set s.sp.toNat v s.sp.isLt := rfl
@[simp] theorem State.push_stackWritten (s : State) (v : ProgAddr) : (s.push v).stackWritten = withBit s.stackWritten s.sp.toNat true := rfl
@[simp] theorem State.push_sp (s : State) (v : ProgAddr) : (s.push v).sp = s.sp + 1#3 := rfl
@[simp] theorem State.push_wdt (s : State) (v : ProgAddr) : (s.push v).wdt = s.wdt := rfl
@[simp] theorem State.push_psc (s : State) (v : ProgAddr) : (s.push v).psc = s.psc := rfl
@[simp] theorem State.push_sleeping (s : State) (v : ProgAddr) : (s.push v).sleeping = s.sleeping := rfl
@[simp] theorem State.push_extA (s : State) (v : ProgAddr) : (s.push v).extA = s.extA := rfl
@[simp] theorem State.push_extB (s : State) (v : ProgAddr) : (s.push v).extB = s.extB := rfl
@[simp] theorem State.push_loadA (s : State) (v : ProgAddr) : (s.push v).loadA = s.loadA := rfl
@[simp] theorem State.push_loadB (s : State) (v : ProgAddr) : (s.push v).loadB = s.loadB := rfl
@[simp] theorem State.push_prog (s : State) (v : ProgAddr) : (s.push v).prog = s.prog := rfl
@[simp] theorem State.push_params (s : State) (v : ProgAddr) : (s.push v).params = s.params := rfl
@[simp] theorem State.push_env (s : State) (v : ProgAddr) : (s.push v).env = s.env := rfl
@[simp] theorem State.push_afterWake (s : State) (v : ProgAddr) : (s.push v).afterWake = s.afterWake := rfl
@[simp] theorem State.push_cycles (s : State) (v : ProgAddr) : (s.push v).cycles = s.cycles := rfl

/-! ## State.dropTop -/

@[simp] theorem State.dropTop_w (s : State) : s.dropTop.w = s.w := rfl
@[simp] theorem State.dropTop_pc (s : State) : s.dropTop.pc = s.pc := rfl
@[simp] theorem State.dropTop_pclath (s : State) : s.dropTop.pclath = s.pclath := rfl
@[simp] theorem State.dropTop_status (s : State) : s.dropTop.status = s.status := rfl
@[simp] theorem State.dropTop_fsr (s : State) : s.dropTop.fsr = s.fsr := rfl
@[simp] theorem State.dropTop_intcon (s : State) : s.dropTop.intcon = s.intcon := rfl
@[simp] theorem State.dropTop_optionReg (s : State) : s.dropTop.optionReg = s.optionReg := rfl
@[simp] theorem State.dropTop_trisA (s : State) : s.dropTop.trisA = s.trisA := rfl
@[simp] theorem State.dropTop_trisB (s : State) : s.dropTop.trisB = s.trisB := rfl
@[simp] theorem State.dropTop_latchA (s : State) : s.dropTop.latchA = s.latchA := rfl
@[simp] theorem State.dropTop_latchB (s : State) : s.dropTop.latchB = s.latchB := rfl
@[simp] theorem State.dropTop_tmr0 (s : State) : s.dropTop.tmr0 = s.tmr0 := rfl
@[simp] theorem State.dropTop_eedata (s : State) : s.dropTop.eedata = s.eedata := rfl
@[simp] theorem State.dropTop_eeadr (s : State) : s.dropTop.eeadr = s.eeadr := rfl
@[simp] theorem State.dropTop_eecon1 (s : State) : s.dropTop.eecon1 = s.eecon1 := rfl
@[simp] theorem State.dropTop_gpr (s : State) : s.dropTop.gpr = s.gpr := rfl
@[simp] theorem State.dropTop_stack (s : State) : s.dropTop.stack = s.stack := rfl
@[simp] theorem State.dropTop_stackWritten (s : State) : s.dropTop.stackWritten = s.stackWritten := rfl
@[simp] theorem State.dropTop_sp (s : State) : s.dropTop.sp = s.sp - 1#3 := rfl
@[simp] theorem State.dropTop_wdt (s : State) : s.dropTop.wdt = s.wdt := rfl
@[simp] theorem State.dropTop_psc (s : State) : s.dropTop.psc = s.psc := rfl
@[simp] theorem State.dropTop_sleeping (s : State) : s.dropTop.sleeping = s.sleeping := rfl
@[simp] theorem State.dropTop_extA (s : State) : s.dropTop.extA = s.extA := rfl
@[simp] theorem State.dropTop_extB (s : State) : s.dropTop.extB = s.extB := rfl
@[simp] theorem State.dropTop_loadA (s : State) : s.dropTop.loadA = s.loadA := rfl
@[simp] theorem State.dropTop_loadB (s : State) : s.dropTop.loadB = s.loadB := rfl
@[simp] theorem State.dropTop_prog (s : State) : s.dropTop.prog = s.prog := rfl
@[simp] theorem State.dropTop_params (s : State) : s.dropTop.params = s.params := rfl
@[simp] theorem State.dropTop_env (s : State) : s.dropTop.env = s.env := rfl
@[simp] theorem State.dropTop_afterWake (s : State) : s.dropTop.afterWake = s.afterWake := rfl
@[simp] theorem State.dropTop_cycles (s : State) : s.dropTop.cycles = s.cycles := rfl

/-! ## State.emptyStack -/

@[simp] theorem State.emptyStack_w (s : State) : s.emptyStack.w = s.w := rfl
@[simp] theorem State.emptyStack_pc (s : State) : s.emptyStack.pc = s.pc := rfl
@[simp] theorem State.emptyStack_pclath (s : State) : s.emptyStack.pclath = s.pclath := rfl
@[simp] theorem State.emptyStack_status (s : State) : s.emptyStack.status = s.status := rfl
@[simp] theorem State.emptyStack_fsr (s : State) : s.emptyStack.fsr = s.fsr := rfl
@[simp] theorem State.emptyStack_intcon (s : State) : s.emptyStack.intcon = s.intcon := rfl
@[simp] theorem State.emptyStack_optionReg (s : State) : s.emptyStack.optionReg = s.optionReg := rfl
@[simp] theorem State.emptyStack_trisA (s : State) : s.emptyStack.trisA = s.trisA := rfl
@[simp] theorem State.emptyStack_trisB (s : State) : s.emptyStack.trisB = s.trisB := rfl
@[simp] theorem State.emptyStack_latchA (s : State) : s.emptyStack.latchA = s.latchA := rfl
@[simp] theorem State.emptyStack_latchB (s : State) : s.emptyStack.latchB = s.latchB := rfl
@[simp] theorem State.emptyStack_tmr0 (s : State) : s.emptyStack.tmr0 = s.tmr0 := rfl
@[simp] theorem State.emptyStack_eedata (s : State) : s.emptyStack.eedata = s.eedata := rfl
@[simp] theorem State.emptyStack_eeadr (s : State) : s.emptyStack.eeadr = s.eeadr := rfl
@[simp] theorem State.emptyStack_eecon1 (s : State) : s.emptyStack.eecon1 = s.eecon1 := rfl
@[simp] theorem State.emptyStack_gpr (s : State) : s.emptyStack.gpr = s.gpr := rfl
@[simp] theorem State.emptyStack_stack (s : State) : s.emptyStack.stack = s.stack := rfl
@[simp] theorem State.emptyStack_stackWritten (s : State) : s.emptyStack.stackWritten = 0#8 := rfl
@[simp] theorem State.emptyStack_sp (s : State) : s.emptyStack.sp = 0#3 := rfl
@[simp] theorem State.emptyStack_wdt (s : State) : s.emptyStack.wdt = s.wdt := rfl
@[simp] theorem State.emptyStack_psc (s : State) : s.emptyStack.psc = s.psc := rfl
@[simp] theorem State.emptyStack_sleeping (s : State) : s.emptyStack.sleeping = s.sleeping := rfl
@[simp] theorem State.emptyStack_extA (s : State) : s.emptyStack.extA = s.extA := rfl
@[simp] theorem State.emptyStack_extB (s : State) : s.emptyStack.extB = s.extB := rfl
@[simp] theorem State.emptyStack_loadA (s : State) : s.emptyStack.loadA = s.loadA := rfl
@[simp] theorem State.emptyStack_loadB (s : State) : s.emptyStack.loadB = s.loadB := rfl
@[simp] theorem State.emptyStack_prog (s : State) : s.emptyStack.prog = s.prog := rfl
@[simp] theorem State.emptyStack_params (s : State) : s.emptyStack.params = s.params := rfl
@[simp] theorem State.emptyStack_env (s : State) : s.emptyStack.env = s.env := rfl
@[simp] theorem State.emptyStack_afterWake (s : State) : s.emptyStack.afterWake = s.afterWake := rfl
@[simp] theorem State.emptyStack_cycles (s : State) : s.emptyStack.cycles = s.cycles := rfl

/-! ## State.clearWatchdog -/

@[simp] theorem State.clearWatchdog_w (s : State) : s.clearWatchdog.w = s.w := rfl
@[simp] theorem State.clearWatchdog_pc (s : State) : s.clearWatchdog.pc = s.pc := rfl
@[simp] theorem State.clearWatchdog_pclath (s : State) : s.clearWatchdog.pclath = s.pclath := rfl
@[simp] theorem State.clearWatchdog_status (s : State) : s.clearWatchdog.status = s.status := rfl
@[simp] theorem State.clearWatchdog_fsr (s : State) : s.clearWatchdog.fsr = s.fsr := rfl
@[simp] theorem State.clearWatchdog_intcon (s : State) : s.clearWatchdog.intcon = s.intcon := rfl
@[simp] theorem State.clearWatchdog_optionReg (s : State) : s.clearWatchdog.optionReg = s.optionReg := rfl
@[simp] theorem State.clearWatchdog_trisA (s : State) : s.clearWatchdog.trisA = s.trisA := rfl
@[simp] theorem State.clearWatchdog_trisB (s : State) : s.clearWatchdog.trisB = s.trisB := rfl
@[simp] theorem State.clearWatchdog_latchA (s : State) : s.clearWatchdog.latchA = s.latchA := rfl
@[simp] theorem State.clearWatchdog_latchB (s : State) : s.clearWatchdog.latchB = s.latchB := rfl
@[simp] theorem State.clearWatchdog_tmr0 (s : State) : s.clearWatchdog.tmr0 = s.tmr0 := rfl
@[simp] theorem State.clearWatchdog_eedata (s : State) : s.clearWatchdog.eedata = s.eedata := rfl
@[simp] theorem State.clearWatchdog_eeadr (s : State) : s.clearWatchdog.eeadr = s.eeadr := rfl
@[simp] theorem State.clearWatchdog_eecon1 (s : State) : s.clearWatchdog.eecon1 = s.eecon1 := rfl
@[simp] theorem State.clearWatchdog_gpr (s : State) : s.clearWatchdog.gpr = s.gpr := rfl
@[simp] theorem State.clearWatchdog_stack (s : State) : s.clearWatchdog.stack = s.stack := rfl
@[simp] theorem State.clearWatchdog_stackWritten (s : State) : s.clearWatchdog.stackWritten = s.stackWritten := rfl
@[simp] theorem State.clearWatchdog_sp (s : State) : s.clearWatchdog.sp = s.sp := rfl
@[simp] theorem State.clearWatchdog_wdt (s : State) : s.clearWatchdog.wdt = 0x00#8 := rfl
@[simp] theorem State.clearWatchdog_psc (s : State) : s.clearWatchdog.psc = if s.prescalerOnWdt then 0x00#8 else s.psc := rfl
@[simp] theorem State.clearWatchdog_sleeping (s : State) : s.clearWatchdog.sleeping = s.sleeping := rfl
@[simp] theorem State.clearWatchdog_extA (s : State) : s.clearWatchdog.extA = s.extA := rfl
@[simp] theorem State.clearWatchdog_extB (s : State) : s.clearWatchdog.extB = s.extB := rfl
@[simp] theorem State.clearWatchdog_loadA (s : State) : s.clearWatchdog.loadA = s.loadA := rfl
@[simp] theorem State.clearWatchdog_loadB (s : State) : s.clearWatchdog.loadB = s.loadB := rfl
@[simp] theorem State.clearWatchdog_prog (s : State) : s.clearWatchdog.prog = s.prog := rfl
@[simp] theorem State.clearWatchdog_params (s : State) : s.clearWatchdog.params = s.params := rfl
@[simp] theorem State.clearWatchdog_env (s : State) : s.clearWatchdog.env = s.env := rfl
@[simp] theorem State.clearWatchdog_afterWake (s : State) : s.clearWatchdog.afterWake = s.afterWake := rfl
@[simp] theorem State.clearWatchdog_cycles (s : State) : s.clearWatchdog.cycles = s.cycles := rfl

/-! ## State.setGie -/

@[simp] theorem State.setGie_w (s : State) (b : Bool) : (s.setGie b).w = s.w := rfl
@[simp] theorem State.setGie_pc (s : State) (b : Bool) : (s.setGie b).pc = s.pc := rfl
@[simp] theorem State.setGie_pclath (s : State) (b : Bool) : (s.setGie b).pclath = s.pclath := rfl
@[simp] theorem State.setGie_status (s : State) (b : Bool) : (s.setGie b).status = s.status := rfl
@[simp] theorem State.setGie_fsr (s : State) (b : Bool) : (s.setGie b).fsr = s.fsr := rfl
@[simp] theorem State.setGie_intcon (s : State) (b : Bool) : (s.setGie b).intcon = withBit s.intcon 7 b := rfl
@[simp] theorem State.setGie_optionReg (s : State) (b : Bool) : (s.setGie b).optionReg = s.optionReg := rfl
@[simp] theorem State.setGie_trisA (s : State) (b : Bool) : (s.setGie b).trisA = s.trisA := rfl
@[simp] theorem State.setGie_trisB (s : State) (b : Bool) : (s.setGie b).trisB = s.trisB := rfl
@[simp] theorem State.setGie_latchA (s : State) (b : Bool) : (s.setGie b).latchA = s.latchA := rfl
@[simp] theorem State.setGie_latchB (s : State) (b : Bool) : (s.setGie b).latchB = s.latchB := rfl
@[simp] theorem State.setGie_tmr0 (s : State) (b : Bool) : (s.setGie b).tmr0 = s.tmr0 := rfl
@[simp] theorem State.setGie_eedata (s : State) (b : Bool) : (s.setGie b).eedata = s.eedata := rfl
@[simp] theorem State.setGie_eeadr (s : State) (b : Bool) : (s.setGie b).eeadr = s.eeadr := rfl
@[simp] theorem State.setGie_eecon1 (s : State) (b : Bool) : (s.setGie b).eecon1 = s.eecon1 := rfl
@[simp] theorem State.setGie_gpr (s : State) (b : Bool) : (s.setGie b).gpr = s.gpr := rfl
@[simp] theorem State.setGie_stack (s : State) (b : Bool) : (s.setGie b).stack = s.stack := rfl
@[simp] theorem State.setGie_stackWritten (s : State) (b : Bool) : (s.setGie b).stackWritten = s.stackWritten := rfl
@[simp] theorem State.setGie_sp (s : State) (b : Bool) : (s.setGie b).sp = s.sp := rfl
@[simp] theorem State.setGie_wdt (s : State) (b : Bool) : (s.setGie b).wdt = s.wdt := rfl
@[simp] theorem State.setGie_psc (s : State) (b : Bool) : (s.setGie b).psc = s.psc := rfl
@[simp] theorem State.setGie_sleeping (s : State) (b : Bool) : (s.setGie b).sleeping = s.sleeping := rfl
@[simp] theorem State.setGie_extA (s : State) (b : Bool) : (s.setGie b).extA = s.extA := rfl
@[simp] theorem State.setGie_extB (s : State) (b : Bool) : (s.setGie b).extB = s.extB := rfl
@[simp] theorem State.setGie_loadA (s : State) (b : Bool) : (s.setGie b).loadA = s.loadA := rfl
@[simp] theorem State.setGie_loadB (s : State) (b : Bool) : (s.setGie b).loadB = s.loadB := rfl
@[simp] theorem State.setGie_prog (s : State) (b : Bool) : (s.setGie b).prog = s.prog := rfl
@[simp] theorem State.setGie_params (s : State) (b : Bool) : (s.setGie b).params = s.params := rfl
@[simp] theorem State.setGie_env (s : State) (b : Bool) : (s.setGie b).env = s.env := rfl
@[simp] theorem State.setGie_afterWake (s : State) (b : Bool) : (s.setGie b).afterWake = s.afterWake := rfl
@[simp] theorem State.setGie_cycles (s : State) (b : Bool) : (s.setGie b).cycles = s.cycles := rfl

/-! ## State.takeInterrupt -/

@[simp] theorem State.takeInterrupt_w (s : State) : s.takeInterrupt.w = s.w := rfl
@[simp] theorem State.takeInterrupt_pc (s : State) : s.takeInterrupt.pc = Config.interruptVector := rfl
@[simp] theorem State.takeInterrupt_pclath (s : State) : s.takeInterrupt.pclath = s.pclath := rfl
@[simp] theorem State.takeInterrupt_status (s : State) : s.takeInterrupt.status = s.status := rfl
@[simp] theorem State.takeInterrupt_fsr (s : State) : s.takeInterrupt.fsr = s.fsr := rfl
@[simp] theorem State.takeInterrupt_intcon (s : State) : s.takeInterrupt.intcon = withBit s.intcon 7 false := rfl
@[simp] theorem State.takeInterrupt_optionReg (s : State) : s.takeInterrupt.optionReg = s.optionReg := rfl
@[simp] theorem State.takeInterrupt_trisA (s : State) : s.takeInterrupt.trisA = s.trisA := rfl
@[simp] theorem State.takeInterrupt_trisB (s : State) : s.takeInterrupt.trisB = s.trisB := rfl
@[simp] theorem State.takeInterrupt_latchA (s : State) : s.takeInterrupt.latchA = s.latchA := rfl
@[simp] theorem State.takeInterrupt_latchB (s : State) : s.takeInterrupt.latchB = s.latchB := rfl
@[simp] theorem State.takeInterrupt_tmr0 (s : State) : s.takeInterrupt.tmr0 = s.tmr0 := rfl
@[simp] theorem State.takeInterrupt_eedata (s : State) : s.takeInterrupt.eedata = s.eedata := rfl
@[simp] theorem State.takeInterrupt_eeadr (s : State) : s.takeInterrupt.eeadr = s.eeadr := rfl
@[simp] theorem State.takeInterrupt_eecon1 (s : State) : s.takeInterrupt.eecon1 = s.eecon1 := rfl
@[simp] theorem State.takeInterrupt_gpr (s : State) : s.takeInterrupt.gpr = s.gpr := rfl
@[simp] theorem State.takeInterrupt_stack (s : State) : s.takeInterrupt.stack = s.stack.set s.sp.toNat s.pc s.sp.isLt := rfl
@[simp] theorem State.takeInterrupt_stackWritten (s : State) : s.takeInterrupt.stackWritten = withBit s.stackWritten s.sp.toNat true := rfl
@[simp] theorem State.takeInterrupt_sp (s : State) : s.takeInterrupt.sp = s.sp + 1#3 := rfl
@[simp] theorem State.takeInterrupt_wdt (s : State) : s.takeInterrupt.wdt = s.wdt := rfl
@[simp] theorem State.takeInterrupt_psc (s : State) : s.takeInterrupt.psc = s.psc := rfl
@[simp] theorem State.takeInterrupt_sleeping (s : State) : s.takeInterrupt.sleeping = s.sleeping := rfl
@[simp] theorem State.takeInterrupt_extA (s : State) : s.takeInterrupt.extA = s.extA := rfl
@[simp] theorem State.takeInterrupt_extB (s : State) : s.takeInterrupt.extB = s.extB := rfl
@[simp] theorem State.takeInterrupt_loadA (s : State) : s.takeInterrupt.loadA = s.loadA := rfl
@[simp] theorem State.takeInterrupt_loadB (s : State) : s.takeInterrupt.loadB = s.loadB := rfl
@[simp] theorem State.takeInterrupt_prog (s : State) : s.takeInterrupt.prog = s.prog := rfl
@[simp] theorem State.takeInterrupt_params (s : State) : s.takeInterrupt.params = s.params := rfl
@[simp] theorem State.takeInterrupt_env (s : State) : s.takeInterrupt.env = s.env := rfl
@[simp] theorem State.takeInterrupt_afterWake (s : State) : s.takeInterrupt.afterWake = s.afterWake := rfl
@[simp] theorem State.takeInterrupt_cycles (s : State) : s.takeInterrupt.cycles = s.cycles := rfl

/-! ## State.wakeByInterrupt -/

@[simp] theorem State.wakeByInterrupt_w (s : State) : s.wakeByInterrupt.w = s.w := rfl
@[simp] theorem State.wakeByInterrupt_pc (s : State) : s.wakeByInterrupt.pc = s.pc := rfl
@[simp] theorem State.wakeByInterrupt_pclath (s : State) : s.wakeByInterrupt.pclath = s.pclath := rfl
@[simp] theorem State.wakeByInterrupt_status (s : State) : s.wakeByInterrupt.status = s.status := rfl
@[simp] theorem State.wakeByInterrupt_fsr (s : State) : s.wakeByInterrupt.fsr = s.fsr := rfl
@[simp] theorem State.wakeByInterrupt_intcon (s : State) : s.wakeByInterrupt.intcon = s.intcon := rfl
@[simp] theorem State.wakeByInterrupt_optionReg (s : State) : s.wakeByInterrupt.optionReg = s.optionReg := rfl
@[simp] theorem State.wakeByInterrupt_trisA (s : State) : s.wakeByInterrupt.trisA = s.trisA := rfl
@[simp] theorem State.wakeByInterrupt_trisB (s : State) : s.wakeByInterrupt.trisB = s.trisB := rfl
@[simp] theorem State.wakeByInterrupt_latchA (s : State) : s.wakeByInterrupt.latchA = s.latchA := rfl
@[simp] theorem State.wakeByInterrupt_latchB (s : State) : s.wakeByInterrupt.latchB = s.latchB := rfl
@[simp] theorem State.wakeByInterrupt_tmr0 (s : State) : s.wakeByInterrupt.tmr0 = s.tmr0 := rfl
@[simp] theorem State.wakeByInterrupt_eedata (s : State) : s.wakeByInterrupt.eedata = s.eedata := rfl
@[simp] theorem State.wakeByInterrupt_eeadr (s : State) : s.wakeByInterrupt.eeadr = s.eeadr := rfl
@[simp] theorem State.wakeByInterrupt_eecon1 (s : State) : s.wakeByInterrupt.eecon1 = s.eecon1 := rfl
@[simp] theorem State.wakeByInterrupt_gpr (s : State) : s.wakeByInterrupt.gpr = s.gpr := rfl
@[simp] theorem State.wakeByInterrupt_stack (s : State) : s.wakeByInterrupt.stack = s.stack := rfl
@[simp] theorem State.wakeByInterrupt_stackWritten (s : State) : s.wakeByInterrupt.stackWritten = s.stackWritten := rfl
@[simp] theorem State.wakeByInterrupt_sp (s : State) : s.wakeByInterrupt.sp = s.sp := rfl
@[simp] theorem State.wakeByInterrupt_wdt (s : State) : s.wakeByInterrupt.wdt = s.wdt := rfl
@[simp] theorem State.wakeByInterrupt_psc (s : State) : s.wakeByInterrupt.psc = s.psc := rfl
@[simp] theorem State.wakeByInterrupt_sleeping (s : State) : s.wakeByInterrupt.sleeping = false := rfl
@[simp] theorem State.wakeByInterrupt_extA (s : State) : s.wakeByInterrupt.extA = s.extA := rfl
@[simp] theorem State.wakeByInterrupt_extB (s : State) : s.wakeByInterrupt.extB = s.extB := rfl
@[simp] theorem State.wakeByInterrupt_loadA (s : State) : s.wakeByInterrupt.loadA = s.loadA := rfl
@[simp] theorem State.wakeByInterrupt_loadB (s : State) : s.wakeByInterrupt.loadB = s.loadB := rfl
@[simp] theorem State.wakeByInterrupt_prog (s : State) : s.wakeByInterrupt.prog = s.prog := rfl
@[simp] theorem State.wakeByInterrupt_params (s : State) : s.wakeByInterrupt.params = s.params := rfl
@[simp] theorem State.wakeByInterrupt_env (s : State) : s.wakeByInterrupt.env = s.env := rfl
@[simp] theorem State.wakeByInterrupt_afterWake (s : State) : s.wakeByInterrupt.afterWake = true := rfl
@[simp] theorem State.wakeByInterrupt_cycles (s : State) : s.wakeByInterrupt.cycles = s.cycles := rfl

/-! ## State.endWake -/

@[simp] theorem State.endWake_w (s : State) : s.endWake.w = s.w := rfl
@[simp] theorem State.endWake_pc (s : State) : s.endWake.pc = s.pc := rfl
@[simp] theorem State.endWake_pclath (s : State) : s.endWake.pclath = s.pclath := rfl
@[simp] theorem State.endWake_status (s : State) : s.endWake.status = s.status := rfl
@[simp] theorem State.endWake_fsr (s : State) : s.endWake.fsr = s.fsr := rfl
@[simp] theorem State.endWake_intcon (s : State) : s.endWake.intcon = s.intcon := rfl
@[simp] theorem State.endWake_optionReg (s : State) : s.endWake.optionReg = s.optionReg := rfl
@[simp] theorem State.endWake_trisA (s : State) : s.endWake.trisA = s.trisA := rfl
@[simp] theorem State.endWake_trisB (s : State) : s.endWake.trisB = s.trisB := rfl
@[simp] theorem State.endWake_latchA (s : State) : s.endWake.latchA = s.latchA := rfl
@[simp] theorem State.endWake_latchB (s : State) : s.endWake.latchB = s.latchB := rfl
@[simp] theorem State.endWake_tmr0 (s : State) : s.endWake.tmr0 = s.tmr0 := rfl
@[simp] theorem State.endWake_eedata (s : State) : s.endWake.eedata = s.eedata := rfl
@[simp] theorem State.endWake_eeadr (s : State) : s.endWake.eeadr = s.eeadr := rfl
@[simp] theorem State.endWake_eecon1 (s : State) : s.endWake.eecon1 = s.eecon1 := rfl
@[simp] theorem State.endWake_gpr (s : State) : s.endWake.gpr = s.gpr := rfl
@[simp] theorem State.endWake_stack (s : State) : s.endWake.stack = s.stack := rfl
@[simp] theorem State.endWake_stackWritten (s : State) : s.endWake.stackWritten = s.stackWritten := rfl
@[simp] theorem State.endWake_sp (s : State) : s.endWake.sp = s.sp := rfl
@[simp] theorem State.endWake_wdt (s : State) : s.endWake.wdt = s.wdt := rfl
@[simp] theorem State.endWake_psc (s : State) : s.endWake.psc = s.psc := rfl
@[simp] theorem State.endWake_sleeping (s : State) : s.endWake.sleeping = s.sleeping := rfl
@[simp] theorem State.endWake_extA (s : State) : s.endWake.extA = s.extA := rfl
@[simp] theorem State.endWake_extB (s : State) : s.endWake.extB = s.extB := rfl
@[simp] theorem State.endWake_loadA (s : State) : s.endWake.loadA = s.loadA := rfl
@[simp] theorem State.endWake_loadB (s : State) : s.endWake.loadB = s.loadB := rfl
@[simp] theorem State.endWake_prog (s : State) : s.endWake.prog = s.prog := rfl
@[simp] theorem State.endWake_params (s : State) : s.endWake.params = s.params := rfl
@[simp] theorem State.endWake_env (s : State) : s.endWake.env = s.env := rfl
@[simp] theorem State.endWake_afterWake (s : State) : s.endWake.afterWake = false := rfl
@[simp] theorem State.endWake_cycles (s : State) : s.endWake.cycles = s.cycles := rfl

/-! ## State.wakeByWatchdog -/

@[simp] theorem State.wakeByWatchdog_w (s : State) : s.wakeByWatchdog.w = s.w := rfl
@[simp] theorem State.wakeByWatchdog_pc (s : State) : s.wakeByWatchdog.pc = s.pc := rfl
@[simp] theorem State.wakeByWatchdog_pclath (s : State) : s.wakeByWatchdog.pclath = s.pclath := rfl
@[simp] theorem State.wakeByWatchdog_status (s : State) : s.wakeByWatchdog.status = withBit s.status 4 false := rfl
@[simp] theorem State.wakeByWatchdog_fsr (s : State) : s.wakeByWatchdog.fsr = s.fsr := rfl
@[simp] theorem State.wakeByWatchdog_intcon (s : State) : s.wakeByWatchdog.intcon = s.intcon := rfl
@[simp] theorem State.wakeByWatchdog_optionReg (s : State) : s.wakeByWatchdog.optionReg = s.optionReg := rfl
@[simp] theorem State.wakeByWatchdog_trisA (s : State) : s.wakeByWatchdog.trisA = s.trisA := rfl
@[simp] theorem State.wakeByWatchdog_trisB (s : State) : s.wakeByWatchdog.trisB = s.trisB := rfl
@[simp] theorem State.wakeByWatchdog_latchA (s : State) : s.wakeByWatchdog.latchA = s.latchA := rfl
@[simp] theorem State.wakeByWatchdog_latchB (s : State) : s.wakeByWatchdog.latchB = s.latchB := rfl
@[simp] theorem State.wakeByWatchdog_tmr0 (s : State) : s.wakeByWatchdog.tmr0 = s.tmr0 := rfl
@[simp] theorem State.wakeByWatchdog_eedata (s : State) : s.wakeByWatchdog.eedata = s.eedata := rfl
@[simp] theorem State.wakeByWatchdog_eeadr (s : State) : s.wakeByWatchdog.eeadr = s.eeadr := rfl
@[simp] theorem State.wakeByWatchdog_eecon1 (s : State) : s.wakeByWatchdog.eecon1 = s.eecon1 := rfl
@[simp] theorem State.wakeByWatchdog_gpr (s : State) : s.wakeByWatchdog.gpr = s.gpr := rfl
@[simp] theorem State.wakeByWatchdog_stack (s : State) : s.wakeByWatchdog.stack = s.stack := rfl
@[simp] theorem State.wakeByWatchdog_stackWritten (s : State) : s.wakeByWatchdog.stackWritten = s.stackWritten := rfl
@[simp] theorem State.wakeByWatchdog_sp (s : State) : s.wakeByWatchdog.sp = s.sp := rfl
@[simp] theorem State.wakeByWatchdog_wdt (s : State) : s.wakeByWatchdog.wdt = s.wdt := rfl
@[simp] theorem State.wakeByWatchdog_psc (s : State) : s.wakeByWatchdog.psc = s.psc := rfl
@[simp] theorem State.wakeByWatchdog_sleeping (s : State) : s.wakeByWatchdog.sleeping = false := rfl
@[simp] theorem State.wakeByWatchdog_extA (s : State) : s.wakeByWatchdog.extA = s.extA := rfl
@[simp] theorem State.wakeByWatchdog_extB (s : State) : s.wakeByWatchdog.extB = s.extB := rfl
@[simp] theorem State.wakeByWatchdog_loadA (s : State) : s.wakeByWatchdog.loadA = s.loadA := rfl
@[simp] theorem State.wakeByWatchdog_loadB (s : State) : s.wakeByWatchdog.loadB = s.loadB := rfl
@[simp] theorem State.wakeByWatchdog_prog (s : State) : s.wakeByWatchdog.prog = s.prog := rfl
@[simp] theorem State.wakeByWatchdog_params (s : State) : s.wakeByWatchdog.params = s.params := rfl
@[simp] theorem State.wakeByWatchdog_env (s : State) : s.wakeByWatchdog.env = s.env := rfl
@[simp] theorem State.wakeByWatchdog_afterWake (s : State) : s.wakeByWatchdog.afterWake = s.wakePending := rfl
@[simp] theorem State.wakeByWatchdog_cycles (s : State) : s.wakeByWatchdog.cycles = s.cycles := rfl

/-! ## State.resetCommon -/

@[simp] theorem State.resetCommon_w (s : State) : s.resetCommon.w = s.w := rfl
@[simp] theorem State.resetCommon_pc (s : State) : s.resetCommon.pc = Config.resetVector := rfl
@[simp] theorem State.resetCommon_pclath (s : State) : s.resetCommon.pclath = 0#5 := rfl
@[simp] theorem State.resetCommon_status (s : State) : s.resetCommon.status = s.status := rfl
@[simp] theorem State.resetCommon_fsr (s : State) : s.resetCommon.fsr = s.fsr := rfl
@[simp] theorem State.resetCommon_intcon (s : State) : s.resetCommon.intcon = s.intcon := rfl
@[simp] theorem State.resetCommon_optionReg (s : State) : s.resetCommon.optionReg = 0xFF#8 := rfl
@[simp] theorem State.resetCommon_trisA (s : State) : s.resetCommon.trisA = 0b11111#5 := rfl
@[simp] theorem State.resetCommon_trisB (s : State) : s.resetCommon.trisB = 0xFF#8 := rfl
@[simp] theorem State.resetCommon_latchA (s : State) : s.resetCommon.latchA = s.latchA := rfl
@[simp] theorem State.resetCommon_latchB (s : State) : s.resetCommon.latchB = s.latchB := rfl
@[simp] theorem State.resetCommon_tmr0 (s : State) : s.resetCommon.tmr0 = s.tmr0 := rfl
@[simp] theorem State.resetCommon_eedata (s : State) : s.resetCommon.eedata = s.eedata := rfl
@[simp] theorem State.resetCommon_eeadr (s : State) : s.resetCommon.eeadr = s.eeadr := rfl
@[simp] theorem State.resetCommon_eecon1 (s : State) : s.resetCommon.eecon1 = s.eecon1 := rfl
@[simp] theorem State.resetCommon_gpr (s : State) : s.resetCommon.gpr = s.gpr := rfl
@[simp] theorem State.resetCommon_stack (s : State) : s.resetCommon.stack = s.stack := rfl
@[simp] theorem State.resetCommon_stackWritten (s : State) : s.resetCommon.stackWritten = 0#8 := rfl
@[simp] theorem State.resetCommon_sp (s : State) : s.resetCommon.sp = 0#3 := rfl
@[simp] theorem State.resetCommon_wdt (s : State) : s.resetCommon.wdt = 0x00#8 := rfl
@[simp] theorem State.resetCommon_psc (s : State) : s.resetCommon.psc = 0x00#8 := rfl
@[simp] theorem State.resetCommon_sleeping (s : State) : s.resetCommon.sleeping = false := rfl
@[simp] theorem State.resetCommon_extA (s : State) : s.resetCommon.extA = s.extA := rfl
@[simp] theorem State.resetCommon_extB (s : State) : s.resetCommon.extB = s.extB := rfl
@[simp] theorem State.resetCommon_loadA (s : State) : s.resetCommon.loadA = s.loadA := rfl
@[simp] theorem State.resetCommon_loadB (s : State) : s.resetCommon.loadB = s.loadB := rfl
@[simp] theorem State.resetCommon_prog (s : State) : s.resetCommon.prog = s.prog := rfl
@[simp] theorem State.resetCommon_params (s : State) : s.resetCommon.params = s.params := rfl
@[simp] theorem State.resetCommon_env (s : State) : s.resetCommon.env = s.env := rfl
@[simp] theorem State.resetCommon_afterWake (s : State) : s.resetCommon.afterWake = false := rfl
@[simp] theorem State.resetCommon_cycles (s : State) : s.resetCommon.cycles = s.cycles := rfl

/-! ## State.powerOnReset -/

@[simp] theorem State.powerOnReset_w (s : State) (x : PowerOnCells) : (s.powerOnReset x).w = x.w := rfl
@[simp] theorem State.powerOnReset_pc (s : State) (x : PowerOnCells) : (s.powerOnReset x).pc = Config.resetVector := rfl
@[simp] theorem State.powerOnReset_pclath (s : State) (x : PowerOnCells) : (s.powerOnReset x).pclath = 0#5 := rfl
@[simp] theorem State.powerOnReset_status (s : State) (x : PowerOnCells) : (s.powerOnReset x).status = resetStatus true true (BitVec.ofBool x.z ++ BitVec.ofBool x.dc ++ BitVec.ofBool x.c) := rfl
@[simp] theorem State.powerOnReset_fsr (s : State) (x : PowerOnCells) : (s.powerOnReset x).fsr = x.fsr := rfl
@[simp] theorem State.powerOnReset_intcon (s : State) (x : PowerOnCells) : (s.powerOnReset x).intcon = resetIntcon x.rbif := rfl
@[simp] theorem State.powerOnReset_optionReg (s : State) (x : PowerOnCells) : (s.powerOnReset x).optionReg = 0xFF#8 := rfl
@[simp] theorem State.powerOnReset_trisA (s : State) (x : PowerOnCells) : (s.powerOnReset x).trisA = 0b11111#5 := rfl
@[simp] theorem State.powerOnReset_trisB (s : State) (x : PowerOnCells) : (s.powerOnReset x).trisB = 0xFF#8 := rfl
@[simp] theorem State.powerOnReset_latchA (s : State) (x : PowerOnCells) : (s.powerOnReset x).latchA = x.latchA := rfl
@[simp] theorem State.powerOnReset_latchB (s : State) (x : PowerOnCells) : (s.powerOnReset x).latchB = x.latchB := rfl
@[simp] theorem State.powerOnReset_tmr0 (s : State) (x : PowerOnCells) : (s.powerOnReset x).tmr0 = x.tmr0 := rfl
@[simp] theorem State.powerOnReset_eedata (s : State) (x : PowerOnCells) : (s.powerOnReset x).eedata = x.eedata := rfl
@[simp] theorem State.powerOnReset_eeadr (s : State) (x : PowerOnCells) : (s.powerOnReset x).eeadr = x.eeadr := rfl
@[simp] theorem State.powerOnReset_eecon1 (s : State) (x : PowerOnCells) : (s.powerOnReset x).eecon1 = resetEecon1 x.eecon1Bit3 := rfl
@[simp] theorem State.powerOnReset_gpr (s : State) (x : PowerOnCells) : (s.powerOnReset x).gpr = powerOnGpr s.params x.gpr := rfl
@[simp] theorem State.powerOnReset_stack (s : State) (x : PowerOnCells) : (s.powerOnReset x).stack = x.stack := rfl
@[simp] theorem State.powerOnReset_stackWritten (s : State) (x : PowerOnCells) : (s.powerOnReset x).stackWritten = 0#8 := rfl
@[simp] theorem State.powerOnReset_sp (s : State) (x : PowerOnCells) : (s.powerOnReset x).sp = 0#3 := rfl
@[simp] theorem State.powerOnReset_wdt (s : State) (x : PowerOnCells) : (s.powerOnReset x).wdt = 0x00#8 := rfl
@[simp] theorem State.powerOnReset_psc (s : State) (x : PowerOnCells) : (s.powerOnReset x).psc = 0x00#8 := rfl
@[simp] theorem State.powerOnReset_sleeping (s : State) (x : PowerOnCells) : (s.powerOnReset x).sleeping = false := rfl
@[simp] theorem State.powerOnReset_extA (s : State) (x : PowerOnCells) : (s.powerOnReset x).extA = s.extA := rfl
@[simp] theorem State.powerOnReset_extB (s : State) (x : PowerOnCells) : (s.powerOnReset x).extB = s.extB := rfl
@[simp] theorem State.powerOnReset_loadA (s : State) (x : PowerOnCells) : (s.powerOnReset x).loadA = s.loadA := rfl
@[simp] theorem State.powerOnReset_loadB (s : State) (x : PowerOnCells) : (s.powerOnReset x).loadB = s.loadB := rfl
@[simp] theorem State.powerOnReset_prog (s : State) (x : PowerOnCells) : (s.powerOnReset x).prog = s.prog := rfl
@[simp] theorem State.powerOnReset_params (s : State) (x : PowerOnCells) : (s.powerOnReset x).params = s.params := rfl
@[simp] theorem State.powerOnReset_env (s : State) (x : PowerOnCells) : (s.powerOnReset x).env = s.env := rfl
@[simp] theorem State.powerOnReset_afterWake (s : State) (x : PowerOnCells) : (s.powerOnReset x).afterWake = false := rfl
@[simp] theorem State.powerOnReset_cycles (s : State) (x : PowerOnCells) : (s.powerOnReset x).cycles = s.cycles := rfl

/-! ## State.mclrReset -/

@[simp] theorem State.mclrReset_w (s : State) (q : Bool) : (s.mclrReset q).w = s.w := rfl
@[simp] theorem State.mclrReset_pc (s : State) (q : Bool) : (s.mclrReset q).pc = Config.resetVector := rfl
@[simp] theorem State.mclrReset_pclath (s : State) (q : Bool) : (s.mclrReset q).pclath = 0#5 := rfl
@[simp] theorem State.mclrReset_status (s : State) (q : Bool) : (s.mclrReset q).status = resetStatus (s.sleeping || s.flagTO) (!s.sleeping && s.flagPD) (s.status.extractLsb' 0 3) := rfl
@[simp] theorem State.mclrReset_fsr (s : State) (q : Bool) : (s.mclrReset q).fsr = s.fsr := rfl
@[simp] theorem State.mclrReset_intcon (s : State) (q : Bool) : (s.mclrReset q).intcon = resetIntcon (s.intcon.getLsbD 0) := rfl
@[simp] theorem State.mclrReset_optionReg (s : State) (q : Bool) : (s.mclrReset q).optionReg = 0xFF#8 := rfl
@[simp] theorem State.mclrReset_trisA (s : State) (q : Bool) : (s.mclrReset q).trisA = 0b11111#5 := rfl
@[simp] theorem State.mclrReset_trisB (s : State) (q : Bool) : (s.mclrReset q).trisB = 0xFF#8 := rfl
@[simp] theorem State.mclrReset_latchA (s : State) (q : Bool) : (s.mclrReset q).latchA = s.latchA := rfl
@[simp] theorem State.mclrReset_latchB (s : State) (q : Bool) : (s.mclrReset q).latchB = s.latchB := rfl
@[simp] theorem State.mclrReset_tmr0 (s : State) (q : Bool) : (s.mclrReset q).tmr0 = s.tmr0 := rfl
@[simp] theorem State.mclrReset_eedata (s : State) (q : Bool) : (s.mclrReset q).eedata = s.eedata := rfl
@[simp] theorem State.mclrReset_eeadr (s : State) (q : Bool) : (s.mclrReset q).eeadr = s.eeadr := rfl
@[simp] theorem State.mclrReset_eecon1 (s : State) (q : Bool) : (s.mclrReset q).eecon1 = resetEecon1 q := rfl
@[simp] theorem State.mclrReset_gpr (s : State) (q : Bool) : (s.mclrReset q).gpr = s.gpr := rfl
@[simp] theorem State.mclrReset_stack (s : State) (q : Bool) : (s.mclrReset q).stack = s.stack := rfl
@[simp] theorem State.mclrReset_stackWritten (s : State) (q : Bool) : (s.mclrReset q).stackWritten = 0#8 := rfl
@[simp] theorem State.mclrReset_sp (s : State) (q : Bool) : (s.mclrReset q).sp = 0#3 := rfl
@[simp] theorem State.mclrReset_wdt (s : State) (q : Bool) : (s.mclrReset q).wdt = 0x00#8 := rfl
@[simp] theorem State.mclrReset_psc (s : State) (q : Bool) : (s.mclrReset q).psc = 0x00#8 := rfl
@[simp] theorem State.mclrReset_sleeping (s : State) (q : Bool) : (s.mclrReset q).sleeping = false := rfl
@[simp] theorem State.mclrReset_extA (s : State) (q : Bool) : (s.mclrReset q).extA = s.extA := rfl
@[simp] theorem State.mclrReset_extB (s : State) (q : Bool) : (s.mclrReset q).extB = s.extB := rfl
@[simp] theorem State.mclrReset_loadA (s : State) (q : Bool) : (s.mclrReset q).loadA = s.loadA := rfl
@[simp] theorem State.mclrReset_loadB (s : State) (q : Bool) : (s.mclrReset q).loadB = s.loadB := rfl
@[simp] theorem State.mclrReset_prog (s : State) (q : Bool) : (s.mclrReset q).prog = s.prog := rfl
@[simp] theorem State.mclrReset_params (s : State) (q : Bool) : (s.mclrReset q).params = s.params := rfl
@[simp] theorem State.mclrReset_env (s : State) (q : Bool) : (s.mclrReset q).env = s.env := rfl
@[simp] theorem State.mclrReset_afterWake (s : State) (q : Bool) : (s.mclrReset q).afterWake = false := rfl
@[simp] theorem State.mclrReset_cycles (s : State) (q : Bool) : (s.mclrReset q).cycles = s.cycles := rfl

/-! ## State.watchdogReset -/

@[simp] theorem State.watchdogReset_w (s : State) (q : Bool) : (s.watchdogReset q).w = s.w := rfl
@[simp] theorem State.watchdogReset_pc (s : State) (q : Bool) : (s.watchdogReset q).pc = Config.resetVector := rfl
@[simp] theorem State.watchdogReset_pclath (s : State) (q : Bool) : (s.watchdogReset q).pclath = 0#5 := rfl
@[simp] theorem State.watchdogReset_status (s : State) (q : Bool) : (s.watchdogReset q).status = resetStatus false true (s.status.extractLsb' 0 3) := rfl
@[simp] theorem State.watchdogReset_fsr (s : State) (q : Bool) : (s.watchdogReset q).fsr = s.fsr := rfl
@[simp] theorem State.watchdogReset_intcon (s : State) (q : Bool) : (s.watchdogReset q).intcon = resetIntcon (s.intcon.getLsbD 0) := rfl
@[simp] theorem State.watchdogReset_optionReg (s : State) (q : Bool) : (s.watchdogReset q).optionReg = 0xFF#8 := rfl
@[simp] theorem State.watchdogReset_trisA (s : State) (q : Bool) : (s.watchdogReset q).trisA = 0b11111#5 := rfl
@[simp] theorem State.watchdogReset_trisB (s : State) (q : Bool) : (s.watchdogReset q).trisB = 0xFF#8 := rfl
@[simp] theorem State.watchdogReset_latchA (s : State) (q : Bool) : (s.watchdogReset q).latchA = s.latchA := rfl
@[simp] theorem State.watchdogReset_latchB (s : State) (q : Bool) : (s.watchdogReset q).latchB = s.latchB := rfl
@[simp] theorem State.watchdogReset_tmr0 (s : State) (q : Bool) : (s.watchdogReset q).tmr0 = s.tmr0 := rfl
@[simp] theorem State.watchdogReset_eedata (s : State) (q : Bool) : (s.watchdogReset q).eedata = s.eedata := rfl
@[simp] theorem State.watchdogReset_eeadr (s : State) (q : Bool) : (s.watchdogReset q).eeadr = s.eeadr := rfl
@[simp] theorem State.watchdogReset_eecon1 (s : State) (q : Bool) : (s.watchdogReset q).eecon1 = resetEecon1 q := rfl
@[simp] theorem State.watchdogReset_gpr (s : State) (q : Bool) : (s.watchdogReset q).gpr = s.gpr := rfl
@[simp] theorem State.watchdogReset_stack (s : State) (q : Bool) : (s.watchdogReset q).stack = s.stack := rfl
@[simp] theorem State.watchdogReset_stackWritten (s : State) (q : Bool) : (s.watchdogReset q).stackWritten = 0#8 := rfl
@[simp] theorem State.watchdogReset_sp (s : State) (q : Bool) : (s.watchdogReset q).sp = 0#3 := rfl
@[simp] theorem State.watchdogReset_wdt (s : State) (q : Bool) : (s.watchdogReset q).wdt = 0x00#8 := rfl
@[simp] theorem State.watchdogReset_psc (s : State) (q : Bool) : (s.watchdogReset q).psc = 0x00#8 := rfl
@[simp] theorem State.watchdogReset_sleeping (s : State) (q : Bool) : (s.watchdogReset q).sleeping = false := rfl
@[simp] theorem State.watchdogReset_extA (s : State) (q : Bool) : (s.watchdogReset q).extA = s.extA := rfl
@[simp] theorem State.watchdogReset_extB (s : State) (q : Bool) : (s.watchdogReset q).extB = s.extB := rfl
@[simp] theorem State.watchdogReset_loadA (s : State) (q : Bool) : (s.watchdogReset q).loadA = s.loadA := rfl
@[simp] theorem State.watchdogReset_loadB (s : State) (q : Bool) : (s.watchdogReset q).loadB = s.loadB := rfl
@[simp] theorem State.watchdogReset_prog (s : State) (q : Bool) : (s.watchdogReset q).prog = s.prog := rfl
@[simp] theorem State.watchdogReset_params (s : State) (q : Bool) : (s.watchdogReset q).params = s.params := rfl
@[simp] theorem State.watchdogReset_env (s : State) (q : Bool) : (s.watchdogReset q).env = s.env := rfl
@[simp] theorem State.watchdogReset_afterWake (s : State) (q : Bool) : (s.watchdogReset q).afterWake = false := rfl
@[simp] theorem State.watchdogReset_cycles (s : State) (q : Bool) : (s.watchdogReset q).cycles = s.cycles := rfl

/-! ## State.applyMove -/

@[simp] theorem State.applyMove_w (s : State) (m : EnvMove) : (s.applyMove m).w = s.w := rfl
@[simp] theorem State.applyMove_pc (s : State) (m : EnvMove) : (s.applyMove m).pc = s.pc := rfl
@[simp] theorem State.applyMove_pclath (s : State) (m : EnvMove) : (s.applyMove m).pclath = s.pclath := rfl
@[simp] theorem State.applyMove_status (s : State) (m : EnvMove) : (s.applyMove m).status = s.status := rfl
@[simp] theorem State.applyMove_fsr (s : State) (m : EnvMove) : (s.applyMove m).fsr = s.fsr := rfl
@[simp] theorem State.applyMove_intcon (s : State) (m : EnvMove) : (s.applyMove m).intcon = s.flagsRaised m := rfl
@[simp] theorem State.applyMove_optionReg (s : State) (m : EnvMove) : (s.applyMove m).optionReg = s.optionReg := rfl
@[simp] theorem State.applyMove_trisA (s : State) (m : EnvMove) : (s.applyMove m).trisA = s.trisA := rfl
@[simp] theorem State.applyMove_trisB (s : State) (m : EnvMove) : (s.applyMove m).trisB = s.trisB := rfl
@[simp] theorem State.applyMove_latchA (s : State) (m : EnvMove) : (s.applyMove m).latchA = s.latchA := rfl
@[simp] theorem State.applyMove_latchB (s : State) (m : EnvMove) : (s.applyMove m).latchB = s.latchB := rfl
@[simp] theorem State.applyMove_tmr0 (s : State) (m : EnvMove) : (s.applyMove m).tmr0 = if s.sleeping then s.tmr0 else m.tmr0.getD s.tmr0 := rfl
@[simp] theorem State.applyMove_eedata (s : State) (m : EnvMove) : (s.applyMove m).eedata = m.eedata.getD s.eedata := rfl
@[simp] theorem State.applyMove_eeadr (s : State) (m : EnvMove) : (s.applyMove m).eeadr = m.eeadr.getD s.eeadr := rfl
@[simp] theorem State.applyMove_eecon1 (s : State) (m : EnvMove) : (s.applyMove m).eecon1 = m.eecon1.getD s.eecon1 := rfl
@[simp] theorem State.applyMove_gpr (s : State) (m : EnvMove) : (s.applyMove m).gpr = s.gpr := rfl
@[simp] theorem State.applyMove_stack (s : State) (m : EnvMove) : (s.applyMove m).stack = s.stack := rfl
@[simp] theorem State.applyMove_stackWritten (s : State) (m : EnvMove) : (s.applyMove m).stackWritten = s.stackWritten := rfl
@[simp] theorem State.applyMove_sp (s : State) (m : EnvMove) : (s.applyMove m).sp = s.sp := rfl
@[simp] theorem State.applyMove_wdt (s : State) (m : EnvMove) : (s.applyMove m).wdt = m.wdt.getD s.wdt := rfl
@[simp] theorem State.applyMove_psc (s : State) (m : EnvMove) : (s.applyMove m).psc = m.psc.getD s.psc := rfl
@[simp] theorem State.applyMove_sleeping (s : State) (m : EnvMove) : (s.applyMove m).sleeping = s.sleeping := rfl
@[simp] theorem State.applyMove_extA (s : State) (m : EnvMove) : (s.applyMove m).extA = m.extA.getD s.extA := rfl
@[simp] theorem State.applyMove_extB (s : State) (m : EnvMove) : (s.applyMove m).extB = m.extB.getD s.extB := rfl
@[simp] theorem State.applyMove_loadA (s : State) (m : EnvMove) : (s.applyMove m).loadA = m.loadA.getD s.loadA := rfl
@[simp] theorem State.applyMove_loadB (s : State) (m : EnvMove) : (s.applyMove m).loadB = m.loadB.getD s.loadB := rfl
@[simp] theorem State.applyMove_prog (s : State) (m : EnvMove) : (s.applyMove m).prog = s.prog := rfl
@[simp] theorem State.applyMove_params (s : State) (m : EnvMove) : (s.applyMove m).params = s.params := rfl
@[simp] theorem State.applyMove_env (s : State) (m : EnvMove) : (s.applyMove m).env = s.env := rfl
@[simp] theorem State.applyMove_afterWake (s : State) (m : EnvMove) : (s.applyMove m).afterWake = s.afterWake := rfl
@[simp] theorem State.applyMove_cycles (s : State) (m : EnvMove) : (s.applyMove m).cycles = s.cycles := rfl

/-! ## State.moved -/

@[simp] theorem State.moved_w (s : State) : s.moved.w = s.w := rfl
@[simp] theorem State.moved_pc (s : State) : s.moved.pc = s.pc := rfl
@[simp] theorem State.moved_pclath (s : State) : s.moved.pclath = s.pclath := rfl
@[simp] theorem State.moved_status (s : State) : s.moved.status = s.status := rfl
@[simp] theorem State.moved_fsr (s : State) : s.moved.fsr = s.fsr := rfl
@[simp] theorem State.moved_intcon (s : State) : s.moved.intcon = s.flagsRaised s.nextMove := rfl
@[simp] theorem State.moved_optionReg (s : State) : s.moved.optionReg = s.optionReg := rfl
@[simp] theorem State.moved_trisA (s : State) : s.moved.trisA = s.trisA := rfl
@[simp] theorem State.moved_trisB (s : State) : s.moved.trisB = s.trisB := rfl
@[simp] theorem State.moved_latchA (s : State) : s.moved.latchA = s.latchA := rfl
@[simp] theorem State.moved_latchB (s : State) : s.moved.latchB = s.latchB := rfl
@[simp] theorem State.moved_tmr0 (s : State) : s.moved.tmr0 = if s.sleeping then s.tmr0 else s.nextMove.tmr0.getD s.tmr0 := rfl
@[simp] theorem State.moved_eedata (s : State) : s.moved.eedata = s.nextMove.eedata.getD s.eedata := rfl
@[simp] theorem State.moved_eeadr (s : State) : s.moved.eeadr = s.nextMove.eeadr.getD s.eeadr := rfl
@[simp] theorem State.moved_eecon1 (s : State) : s.moved.eecon1 = s.nextMove.eecon1.getD s.eecon1 := rfl
@[simp] theorem State.moved_gpr (s : State) : s.moved.gpr = s.gpr := rfl
@[simp] theorem State.moved_stack (s : State) : s.moved.stack = s.stack := rfl
@[simp] theorem State.moved_stackWritten (s : State) : s.moved.stackWritten = s.stackWritten := rfl
@[simp] theorem State.moved_sp (s : State) : s.moved.sp = s.sp := rfl
@[simp] theorem State.moved_wdt (s : State) : s.moved.wdt = s.nextMove.wdt.getD s.wdt := rfl
@[simp] theorem State.moved_psc (s : State) : s.moved.psc = s.nextMove.psc.getD s.psc := rfl
@[simp] theorem State.moved_sleeping (s : State) : s.moved.sleeping = s.sleeping := rfl
@[simp] theorem State.moved_extA (s : State) : s.moved.extA = s.nextMove.extA.getD s.extA := rfl
@[simp] theorem State.moved_extB (s : State) : s.moved.extB = s.nextMove.extB.getD s.extB := rfl
@[simp] theorem State.moved_loadA (s : State) : s.moved.loadA = s.nextMove.loadA.getD s.loadA := rfl
@[simp] theorem State.moved_loadB (s : State) : s.moved.loadB = s.nextMove.loadB.getD s.loadB := rfl
@[simp] theorem State.moved_prog (s : State) : s.moved.prog = s.prog := rfl
@[simp] theorem State.moved_params (s : State) : s.moved.params = s.params := rfl
@[simp] theorem State.moved_env (s : State) : s.moved.env = s.env.tail := rfl
@[simp] theorem State.moved_afterWake (s : State) : s.moved.afterWake = s.afterWake := rfl
@[simp] theorem State.moved_cycles (s : State) : s.moved.cycles = s.cycles := rfl

end Sys2Proof.Machine
end

