-- ==== Sys2Proof/Laws/Bits.lean ====
section
/-! SUPPORT. The bits of the bit-field helpers and of STATUS after each of its updates. -/

namespace Sys2Proof.Machine

@[simp] theorem getLsbD_withBit {n : Nat} (v : BitVec n) (i j : Nat) (b : Bool) :
    (withBit v i b).getLsbD j = if j = i ∧ i < n then b else v.getLsbD j := by
  unfold withBit
  by_cases hn : n = 0
  · subst hn; simp
  by_cases hj : j < n
  · by_cases hji : j = i
    · subst hji; cases b <;> simp [hj]
    · by_cases hlt : j < i
      · cases b <;> simp [hj, hji, hlt]
      · have : j - i ≠ 0 := by omega
        cases b <;> simp [hj, hji, hlt, this]
  · have hv : v.getLsbD j = false := BitVec.getLsbD_of_ge v j (by omega)
    have : ¬(j = i ∧ i < n) := by omega
    rw [if_neg this, hv]
    split <;> exact BitVec.getLsbD_of_ge _ j (by omega)

@[simp] theorem getLsbD_mergeBits {n : Nat} (mask new v : BitVec n) (i : Nat) :
    (mergeBits mask new v).getLsbD i = if mask.getLsbD i then new.getLsbD i else v.getLsbD i := by
  unfold mergeBits
  by_cases h : i < n
  · cases hm : mask.getLsbD i <;> rw [BitVec.getLsbD_eq_getElem h] at hm <;> simp [h, hm]
  · have := BitVec.getLsbD_of_ge (mergeBits mask new v) i (by omega)
    simp [BitVec.getLsbD_of_ge _ i (Nat.le_of_not_lt h)]

@[simp] theorem getLsbD_updateBit (v : Byte) (i j : Nat) (b : Option Bool) :
    (updateBit v i b).getLsbD j = if j = i ∧ i < 8 then b.getD (v.getLsbD j) else v.getLsbD j := by
  cases b <;> simp [updateBit]

/-- STATUS after a file register write (rule R46): TO and PD keep their values, bits 7:5 take the byte, and bits 2:0
take it when the instruction lists no flag. -/
@[simp] theorem getLsbD_statusWritten (aff : Bool) (old v : Byte) (i : Nat) :
    (statusWritten aff old v).getLsbD i =
      if (5 ≤ i ∧ i < 8) ∨ (i < 3 ∧ aff = false) then v.getLsbD i else old.getLsbD i := by
  unfold statusWritten
  rw [getLsbD_mergeBits]
  by_cases h : i < 8
  · have : i = 0 ∨ i = 1 ∨ i = 2 ∨ i = 3 ∨ i = 4 ∨ i = 5 ∨ i = 6 ∨ i = 7 := by omega
    rcases this with rfl | rfl | rfl | rfl | rfl | rfl | rfl | rfl <;> cases aff <;> simp
  · have h1 : ¬((5 ≤ i ∧ i < 8) ∨ (i < 3 ∧ aff = false)) := by omega
    rw [if_neg h1, if_neg]
    rw [BitVec.getLsbD_of_ge _ i (by omega)]
    simp

@[simp] theorem getElem_withBit {n : Nat} (v : BitVec n) (i j : Nat) (b : Bool) (hj : j < n) :
    (withBit v i b)[j] = if j = i then b else v[j] := by
  rw [← BitVec.getLsbD_eq_getElem, getLsbD_withBit]
  by_cases h : j = i
  · subst h; simp [hj]
  · simp [h, hj]

@[simp] theorem getElem_mergeBits {n : Nat} (mask new v : BitVec n) (i : Nat) (hi : i < n) :
    (mergeBits mask new v)[i] = if mask[i] then new[i] else v[i] := by
  simp only [← BitVec.getLsbD_eq_getElem, getLsbD_mergeBits]

@[simp] theorem getElem_updateBit (v : Byte) (i j : Nat) (b : Option Bool) (hj : j < 8) :
    (updateBit v i b)[j] = if j = i then b.getD v[j] else v[j] := by
  simp only [← BitVec.getLsbD_eq_getElem, getLsbD_updateBit]
  by_cases h : j = i
  · subst h; simp [hj]
  · simp [h]

@[simp] theorem getElem_statusWritten (aff : Bool) (old v : Byte) (i : Nat) (hi : i < 8) :
    (statusWritten aff old v)[i] = if 5 ≤ i ∨ (i < 3 ∧ aff = false) then v[i] else old[i] := by
  simp only [← BitVec.getLsbD_eq_getElem, getLsbD_statusWritten, hi, and_true]

/-- Bits 7:5 of two bytes agree when their single bits do. -/
theorem extract_hi3_congr {a b : Byte} (h : ∀ i, 5 ≤ i → i < 8 → a.getLsbD i = b.getLsbD i) :
    a.extractLsb' 5 3 = b.extractLsb' 5 3 := by
  apply BitVec.eq_of_getLsbD_eq
  intro i hi
  simp only [BitVec.getLsbD_extractLsb', hi, decide_true, Bool.true_and]
  exact h (5 + i) (by omega) (by omega)

/-! ## The status bits after each update -/

@[simp] theorem State.advance_flagC (s : State) : s.advance.flagC = s.flagC := rfl
@[simp] theorem State.advance_flagDC (s : State) : s.advance.flagDC = s.flagDC := rfl
@[simp] theorem State.advance_flagZ (s : State) : s.advance.flagZ = s.flagZ := rfl
@[simp] theorem State.advance_flagPD (s : State) : s.advance.flagPD = s.flagPD := rfl
@[simp] theorem State.advance_flagTO (s : State) : s.advance.flagTO = s.flagTO := rfl
@[simp] theorem State.advance_rp0 (s : State) : s.advance.rp0 = s.rp0 := rfl

@[simp] theorem State.jump_flagC (s : State) (a : ProgAddr) : (s.jump a).flagC = s.flagC := rfl
@[simp] theorem State.jump_flagDC (s : State) (a : ProgAddr) : (s.jump a).flagDC = s.flagDC := rfl
@[simp] theorem State.jump_flagZ (s : State) (a : ProgAddr) : (s.jump a).flagZ = s.flagZ := rfl
@[simp] theorem State.jump_flagPD (s : State) (a : ProgAddr) : (s.jump a).flagPD = s.flagPD := rfl
@[simp] theorem State.jump_flagTO (s : State) (a : ProgAddr) : (s.jump a).flagTO = s.flagTO := rfl
@[simp] theorem State.jump_rp0 (s : State) (a : ProgAddr) : (s.jump a).rp0 = s.rp0 := rfl

@[simp] theorem State.skip_flagC (s : State) : s.skip.flagC = s.flagC := rfl
@[simp] theorem State.skip_flagDC (s : State) : s.skip.flagDC = s.flagDC := rfl
@[simp] theorem State.skip_flagZ (s : State) : s.skip.flagZ = s.flagZ := rfl
@[simp] theorem State.skip_flagPD (s : State) : s.skip.flagPD = s.flagPD := rfl
@[simp] theorem State.skip_flagTO (s : State) : s.skip.flagTO = s.flagTO := rfl
@[simp] theorem State.skip_rp0 (s : State) : s.skip.rp0 = s.rp0 := rfl

@[simp] theorem State.setW_flagC (s : State) (v : Byte) : (s.setW v).flagC = s.flagC := rfl
@[simp] theorem State.setW_flagDC (s : State) (v : Byte) : (s.setW v).flagDC = s.flagDC := rfl
@[simp] theorem State.setW_flagZ (s : State) (v : Byte) : (s.setW v).flagZ = s.flagZ := rfl
@[simp] theorem State.setW_flagPD (s : State) (v : Byte) : (s.setW v).flagPD = s.flagPD := rfl
@[simp] theorem State.setW_flagTO (s : State) (v : Byte) : (s.setW v).flagTO = s.flagTO := rfl
@[simp] theorem State.setW_rp0 (s : State) (v : Byte) : (s.setW v).rp0 = s.rp0 := rfl

@[simp] theorem State.setOption_flagC (s : State) (v : Byte) : (s.setOption v).flagC = s.flagC := rfl
@[simp] theorem State.setOption_flagDC (s : State) (v : Byte) : (s.setOption v).flagDC = s.flagDC := rfl
@[simp] theorem State.setOption_flagZ (s : State) (v : Byte) : (s.setOption v).flagZ = s.flagZ := rfl
@[simp] theorem State.setOption_flagPD (s : State) (v : Byte) : (s.setOption v).flagPD = s.flagPD := rfl
@[simp] theorem State.setOption_flagTO (s : State) (v : Byte) : (s.setOption v).flagTO = s.flagTO := rfl
@[simp] theorem State.setOption_rp0 (s : State) (v : Byte) : (s.setOption v).rp0 = s.rp0 := rfl

@[simp] theorem State.setTrisA_flagC (s : State) (v : Byte) : (s.setTrisA v).flagC = s.flagC := rfl
@[simp] theorem State.setTrisA_flagDC (s : State) (v : Byte) : (s.setTrisA v).flagDC = s.flagDC := rfl
@[simp] theorem State.setTrisA_flagZ (s : State) (v : Byte) : (s.setTrisA v).flagZ = s.flagZ := rfl
@[simp] theorem State.setTrisA_flagPD (s : State) (v : Byte) : (s.setTrisA v).flagPD = s.flagPD := rfl
@[simp] theorem State.setTrisA_flagTO (s : State) (v : Byte) : (s.setTrisA v).flagTO = s.flagTO := rfl
@[simp] theorem State.setTrisA_rp0 (s : State) (v : Byte) : (s.setTrisA v).rp0 = s.rp0 := rfl

@[simp] theorem State.setTrisB_flagC (s : State) (v : Byte) : (s.setTrisB v).flagC = s.flagC := rfl
@[simp] theorem State.setTrisB_flagDC (s : State) (v : Byte) : (s.setTrisB v).flagDC = s.flagDC := rfl
@[simp] theorem State.setTrisB_flagZ (s : State) (v : Byte) : (s.setTrisB v).flagZ = s.flagZ := rfl
@[simp] theorem State.setTrisB_flagPD (s : State) (v : Byte) : (s.setTrisB v).flagPD = s.flagPD := rfl
@[simp] theorem State.setTrisB_flagTO (s : State) (v : Byte) : (s.setTrisB v).flagTO = s.flagTO := rfl
@[simp] theorem State.setTrisB_rp0 (s : State) (v : Byte) : (s.setTrisB v).rp0 = s.rp0 := rfl

@[simp] theorem State.fallAsleep_flagC (s : State) : s.fallAsleep.flagC = s.flagC := rfl
@[simp] theorem State.fallAsleep_flagDC (s : State) : s.fallAsleep.flagDC = s.flagDC := rfl
@[simp] theorem State.fallAsleep_flagZ (s : State) : s.fallAsleep.flagZ = s.flagZ := rfl
@[simp] theorem State.fallAsleep_flagPD (s : State) : s.fallAsleep.flagPD = s.flagPD := rfl
@[simp] theorem State.fallAsleep_flagTO (s : State) : s.fallAsleep.flagTO = s.flagTO := rfl
@[simp] theorem State.fallAsleep_rp0 (s : State) : s.fallAsleep.rp0 = s.rp0 := rfl

@[simp] theorem State.writeTmr0_flagC (s : State) (v : Byte) : (s.writeTmr0 v).flagC = s.flagC := rfl
@[simp] theorem State.writeTmr0_flagDC (s : State) (v : Byte) : (s.writeTmr0 v).flagDC = s.flagDC := rfl
@[simp] theorem State.writeTmr0_flagZ (s : State) (v : Byte) : (s.writeTmr0 v).flagZ = s.flagZ := rfl
@[simp] theorem State.writeTmr0_flagPD (s : State) (v : Byte) : (s.writeTmr0 v).flagPD = s.flagPD := rfl
@[simp] theorem State.writeTmr0_flagTO (s : State) (v : Byte) : (s.writeTmr0 v).flagTO = s.flagTO := rfl
@[simp] theorem State.writeTmr0_rp0 (s : State) (v : Byte) : (s.writeTmr0 v).rp0 = s.rp0 := rfl

@[simp] theorem State.push_flagC (s : State) (v : ProgAddr) : (s.push v).flagC = s.flagC := rfl
@[simp] theorem State.push_flagDC (s : State) (v : ProgAddr) : (s.push v).flagDC = s.flagDC := rfl
@[simp] theorem State.push_flagZ (s : State) (v : ProgAddr) : (s.push v).flagZ = s.flagZ := rfl
@[simp] theorem State.push_flagPD (s : State) (v : ProgAddr) : (s.push v).flagPD = s.flagPD := rfl
@[simp] theorem State.push_flagTO (s : State) (v : ProgAddr) : (s.push v).flagTO = s.flagTO := rfl
@[simp] theorem State.push_rp0 (s : State) (v : ProgAddr) : (s.push v).rp0 = s.rp0 := rfl

@[simp] theorem State.dropTop_flagC (s : State) : s.dropTop.flagC = s.flagC := rfl
@[simp] theorem State.dropTop_flagDC (s : State) : s.dropTop.flagDC = s.flagDC := rfl
@[simp] theorem State.dropTop_flagZ (s : State) : s.dropTop.flagZ = s.flagZ := rfl
@[simp] theorem State.dropTop_flagPD (s : State) : s.dropTop.flagPD = s.flagPD := rfl
@[simp] theorem State.dropTop_flagTO (s : State) : s.dropTop.flagTO = s.flagTO := rfl
@[simp] theorem State.dropTop_rp0 (s : State) : s.dropTop.rp0 = s.rp0 := rfl

@[simp] theorem State.emptyStack_flagC (s : State) : s.emptyStack.flagC = s.flagC := rfl
@[simp] theorem State.emptyStack_flagDC (s : State) : s.emptyStack.flagDC = s.flagDC := rfl
@[simp] theorem State.emptyStack_flagZ (s : State) : s.emptyStack.flagZ = s.flagZ := rfl
@[simp] theorem State.emptyStack_flagPD (s : State) : s.emptyStack.flagPD = s.flagPD := rfl
@[simp] theorem State.emptyStack_flagTO (s : State) : s.emptyStack.flagTO = s.flagTO := rfl
@[simp] theorem State.emptyStack_rp0 (s : State) : s.emptyStack.rp0 = s.rp0 := rfl

@[simp] theorem State.clearWatchdog_flagC (s : State) : s.clearWatchdog.flagC = s.flagC := rfl
@[simp] theorem State.clearWatchdog_flagDC (s : State) : s.clearWatchdog.flagDC = s.flagDC := rfl
@[simp] theorem State.clearWatchdog_flagZ (s : State) : s.clearWatchdog.flagZ = s.flagZ := rfl
@[simp] theorem State.clearWatchdog_flagPD (s : State) : s.clearWatchdog.flagPD = s.flagPD := rfl
@[simp] theorem State.clearWatchdog_flagTO (s : State) : s.clearWatchdog.flagTO = s.flagTO := rfl
@[simp] theorem State.clearWatchdog_rp0 (s : State) : s.clearWatchdog.rp0 = s.rp0 := rfl

@[simp] theorem State.setGie_flagC (s : State) (b : Bool) : (s.setGie b).flagC = s.flagC := rfl
@[simp] theorem State.setGie_flagDC (s : State) (b : Bool) : (s.setGie b).flagDC = s.flagDC := rfl
@[simp] theorem State.setGie_flagZ (s : State) (b : Bool) : (s.setGie b).flagZ = s.flagZ := rfl
@[simp] theorem State.setGie_flagPD (s : State) (b : Bool) : (s.setGie b).flagPD = s.flagPD := rfl
@[simp] theorem State.setGie_flagTO (s : State) (b : Bool) : (s.setGie b).flagTO = s.flagTO := rfl
@[simp] theorem State.setGie_rp0 (s : State) (b : Bool) : (s.setGie b).rp0 = s.rp0 := rfl

@[simp] theorem State.takeInterrupt_flagC (s : State) : s.takeInterrupt.flagC = s.flagC := rfl
@[simp] theorem State.takeInterrupt_flagDC (s : State) : s.takeInterrupt.flagDC = s.flagDC := rfl
@[simp] theorem State.takeInterrupt_flagZ (s : State) : s.takeInterrupt.flagZ = s.flagZ := rfl
@[simp] theorem State.takeInterrupt_flagPD (s : State) : s.takeInterrupt.flagPD = s.flagPD := rfl
@[simp] theorem State.takeInterrupt_flagTO (s : State) : s.takeInterrupt.flagTO = s.flagTO := rfl
@[simp] theorem State.takeInterrupt_rp0 (s : State) : s.takeInterrupt.rp0 = s.rp0 := rfl

@[simp] theorem State.wakeByInterrupt_flagC (s : State) : s.wakeByInterrupt.flagC = s.flagC := rfl
@[simp] theorem State.wakeByInterrupt_flagDC (s : State) : s.wakeByInterrupt.flagDC = s.flagDC := rfl
@[simp] theorem State.wakeByInterrupt_flagZ (s : State) : s.wakeByInterrupt.flagZ = s.flagZ := rfl
@[simp] theorem State.wakeByInterrupt_flagPD (s : State) : s.wakeByInterrupt.flagPD = s.flagPD := rfl
@[simp] theorem State.wakeByInterrupt_flagTO (s : State) : s.wakeByInterrupt.flagTO = s.flagTO := rfl
@[simp] theorem State.wakeByInterrupt_rp0 (s : State) : s.wakeByInterrupt.rp0 = s.rp0 := rfl

@[simp] theorem State.setFlags_flagC (s : State) (u : FlagUpdate) : (s.setFlags u).flagC = u.c.getD s.flagC := by
  simp [State.flagC]

@[simp] theorem State.setFlags_flagDC (s : State) (u : FlagUpdate) : (s.setFlags u).flagDC = u.dc.getD s.flagDC := by
  simp [State.flagDC]

@[simp] theorem State.setFlags_flagZ (s : State) (u : FlagUpdate) : (s.setFlags u).flagZ = u.z.getD s.flagZ := by
  simp [State.flagZ]

@[simp] theorem State.setFlags_flagPD (s : State) (u : FlagUpdate) : (s.setFlags u).flagPD = s.flagPD := by
  simp [State.flagPD]

@[simp] theorem State.setFlags_flagTO (s : State) (u : FlagUpdate) : (s.setFlags u).flagTO = s.flagTO := by
  simp [State.flagTO]

@[simp] theorem State.setFlags_rp0 (s : State) (u : FlagUpdate) : (s.setFlags u).rp0 = s.rp0 := by
  simp [State.rp0]

@[simp] theorem State.setTOPD_flagC (s : State) (a b : Bool) : (s.setTOPD a b).flagC = s.flagC := by
  simp [State.flagC]

@[simp] theorem State.setTOPD_flagDC (s : State) (a b : Bool) : (s.setTOPD a b).flagDC = s.flagDC := by
  simp [State.flagDC]

@[simp] theorem State.setTOPD_flagZ (s : State) (a b : Bool) : (s.setTOPD a b).flagZ = s.flagZ := by
  simp [State.flagZ]

@[simp] theorem State.setTOPD_flagPD (s : State) (a b : Bool) : (s.setTOPD a b).flagPD = b := by
  simp [State.flagPD]

@[simp] theorem State.setTOPD_flagTO (s : State) (a b : Bool) : (s.setTOPD a b).flagTO = a := by
  simp [State.flagTO]

@[simp] theorem State.setTOPD_rp0 (s : State) (a b : Bool) : (s.setTOPD a b).rp0 = s.rp0 := by
  simp [State.rp0]

end Sys2Proof.Machine
end

