-- ==== Sys2Proof/Laws/Memory.lean ====
section
/-! SUPPORT. What the memory operations do: a read after a write, and the canonical form kept by every operation. -/

namespace Sys2Proof.Machine

/-! ## General purpose registers -/

theorem Memory.erase_cons (a : Nat) (u : Byte) (m : Memory) (n : Nat) :
    Memory.erase ((a, u) :: m) n = if a = n then Memory.erase m n else (a, u) :: Memory.erase m n := by
  by_cases h : a = n <;> simp [Memory.erase, h]

theorem Memory.read_erase (m : Memory) (n k : Nat) :
    Memory.read (Memory.erase m n) k = if k = n then gprDefault else Memory.read m k := by
  induction m with
  | nil => simp [Memory.erase, Memory.read]
  | cons c m ih =>
    obtain ⟨a, u⟩ := c
    rw [Memory.erase_cons]
    by_cases han : a = n
    · subst han
      simp only [if_true, ih, Memory.read]
      split <;> rename_i h
      · rfl
      · simp [Ne.symm h]
    · by_cases hak : a = k
      · subst hak; simp [Memory.read, han]
      · simp [Memory.read, han, hak, ih]

theorem Memory.read_insert (m : Memory) (n k : Nat) (v : Byte) (hm : ∀ c ∈ m, c.1 ≠ n) :
    Memory.read (Memory.insert m n v) k = if k = n then v else Memory.read m k := by
  induction m with
  | nil => simp only [Memory.insert, Memory.read, eq_comm]
  | cons c m ih =>
    obtain ⟨a, u⟩ := c
    have han : a ≠ n := hm (a, u) (by simp)
    have ih := ih fun c hc => hm c (by simp [hc])
    simp only [Memory.insert]
    split
    · simp only [Memory.read, eq_comm]
    · simp only [Memory.read, ih]
      by_cases hak : a = k
      · subst hak; simp [han]
      · simp [hak]

theorem Memory.ne_of_mem_erase (m : Memory) (n : Nat) : ∀ c ∈ Memory.erase m n, c.1 ≠ n := by
  intro c hc
  simpa using (List.mem_filter.1 hc).2

/-- A read after a write: the byte written at that register, and at every other register what was there. -/
theorem Memory.read_write (m : Memory) (n k : Nat) (v : Byte) :
    Memory.read (Memory.write m n v) k = if k = n then v else Memory.read m k := by
  unfold Memory.write
  split
  · rename_i h
    rw [Memory.read_erase, h]
  · rw [Memory.read_insert _ _ _ _ (Memory.ne_of_mem_erase m n), Memory.read_erase]
    split <;> rfl

theorem Memory.wf_cons (a : Nat) (v : Byte) (m : Memory) :
    Memory.wf ((a, v) :: m) = true ↔ v ≠ gprDefault ∧ (∀ c ∈ m, a < c.1) ∧ Memory.wf m = true := by
  simp [Memory.wf, Memory.above, and_assoc]

theorem Memory.wf_erase (m : Memory) (n : Nat) (h : Memory.wf m = true) : Memory.wf (Memory.erase m n) = true := by
  induction m with
  | nil => rfl
  | cons c m ih =>
    obtain ⟨a, u⟩ := c
    obtain ⟨hu, ha, hm⟩ := (Memory.wf_cons a u m).1 h
    rw [Memory.erase_cons]
    split
    · exact ih hm
    · exact (Memory.wf_cons ..).2 ⟨hu, fun c hc => ha c (List.mem_filter.1 hc).1, ih hm⟩

theorem Memory.mem_insert (m : Memory) (n : Nat) (v : Byte) (c : Host.Cell) :
    c ∈ Memory.insert m n v ↔ c = (n, v) ∨ c ∈ m := by
  induction m with
  | nil => simp [Memory.insert]
  | cons e m ih =>
    obtain ⟨a, u⟩ := e
    simp only [Memory.insert]
    split
    · simp
    · simp [ih, or_left_comm]

theorem Memory.wf_insert (m : Memory) (n : Nat) (v : Byte) (hv : v ≠ gprDefault) (hn : ∀ c ∈ m, c.1 ≠ n)
    (h : Memory.wf m = true) : Memory.wf (Memory.insert m n v) = true := by
  induction m with
  | nil => exact (Memory.wf_cons ..).2 ⟨hv, by simp, rfl⟩
  | cons c m ih =>
    obtain ⟨a, u⟩ := c
    obtain ⟨hu, ha, hm⟩ := (Memory.wf_cons a u m).1 h
    have han : a ≠ n := hn (a, u) (by simp)
    simp only [Memory.insert]
    split
    · rename_i hlt
      refine (Memory.wf_cons ..).2 ⟨hv, fun c hc => ?_, h⟩
      rcases List.mem_cons.1 hc with rfl | hc
      · exact hlt
      · exact hlt.trans (ha c hc)
    · rename_i hlt
      refine (Memory.wf_cons ..).2 ⟨hu, fun c hc => ?_, ih (fun c hc => hn c (by simp [hc])) hm⟩
      rcases (Memory.mem_insert m n v c).1 hc with rfl | hc
      · show a < n
        omega
      · exact ha c hc

/-- A write keeps the canonical form. -/
theorem Memory.wf_write (m : Memory) (n : Nat) (v : Byte) (h : Memory.wf m = true) :
    Memory.wf (Memory.write m n v) = true := by
  unfold Memory.write
  split
  · exact Memory.wf_erase m n h
  · rename_i hv
    exact Memory.wf_insert _ n v hv (Memory.ne_of_mem_erase m n) (Memory.wf_erase m n h)

/-- A write inside the implemented range lists nothing outside it. -/
theorem Memory.inRange_write (p : Config.DeviceParams) (m : Memory) (n : Nat) (v : Byte)
    (hn : Config.gprFirst ≤ n ∧ n ≤ p.gprLast) (h : Memory.inRange p m = true) :
    Memory.inRange p (Memory.write m n v) = true := by
  simp only [Memory.inRange, List.all_eq_true] at h ⊢
  have erased : ∀ c ∈ Memory.erase m n, (decide (Config.gprFirst ≤ c.1) && decide (c.1 ≤ p.gprLast)) = true :=
    fun c hc => h c (List.mem_filter.1 hc).1
  intro c hc
  unfold Memory.write at hc
  split at hc
  · exact erased c hc
  · rcases (Memory.mem_insert _ n v c).1 hc with rfl | hc
    · simpa using hn
    · exact erased c hc

/-- The registers filled after power-on are in canonical form and inside the implemented range. -/
theorem powerOnGpr_wf (p : Config.DeviceParams) (cells : List Host.Cell) :
    Memory.wf (powerOnGpr p cells) = true ∧ Memory.inRange p (powerOnGpr p cells) = true := by
  unfold powerOnGpr
  suffices h : ∀ m : Memory, Memory.wf m = true ∧ Memory.inRange p m = true →
      Memory.wf (cells.foldl (fun m c => if Config.gprFirst ≤ c.1 ∧ c.1 ≤ p.gprLast then Memory.write m c.1 c.2 else m) m)
        = true ∧
      Memory.inRange p (cells.foldl
        (fun m c => if Config.gprFirst ≤ c.1 ∧ c.1 ≤ p.gprLast then Memory.write m c.1 c.2 else m) m) = true from
    h [] ⟨rfl, rfl⟩
  induction cells with
  | nil => exact fun m h => h
  | cons c cells ih =>
    intro m h
    refine ih _ ?_
    dsimp only
    split
    · rename_i hc
      exact ⟨Memory.wf_write _ _ _ h.1, Memory.inRange_write _ _ _ _ hc h.2⟩
    · exact h

/-! ## Program memory -/

theorem Program.mem_insert (m : Program) (n : Nat) (w : ProgWord) (c : Nat × ProgWord) :
    c ∈ Program.insert m n w ↔ c = (n, w) ∨ c ∈ m := by
  induction m with
  | nil => simp [Program.insert]
  | cons e m ih =>
    obtain ⟨a, u⟩ := e
    simp only [Program.insert]
    split
    · simp
    · simp [ih, or_left_comm]

theorem Program.read_insert (m : Program) (n k : Nat) (w : ProgWord) (hm : ∀ c ∈ m, c.1 ≠ n) :
    Program.read (Program.insert m n w) k = if k = n then some w else Program.read m k := by
  induction m with
  | nil => simp only [Program.insert, Program.read, eq_comm]
  | cons c m ih =>
    obtain ⟨a, u⟩ := c
    have han : a ≠ n := hm (a, u) (by simp)
    have ih := ih fun c hc => hm c (by simp [hc])
    simp only [Program.insert]
    split
    · simp only [Program.read, eq_comm]
    · simp only [Program.read, ih]
      by_cases hak : a = k
      · subst hak; simp [han]
      · simp [hak]

/-- A loaded word is what its index reads as. -/
theorem Program.read_store (m : Program) (n : Nat) (w : ProgWord) : Program.read (Program.store m n w) n = some w := by
  have hm : ∀ c ∈ m.filter (fun c => c.1 != n), c.1 ≠ n := fun c hc => by simpa using (List.mem_filter.1 hc).2
  simp [Program.store, Program.read_insert _ _ _ _ hm]

theorem Program.wf_cons (a : Nat) (w : ProgWord) (m : Program) :
    Program.wf ((a, w) :: m) = true ↔ (∀ c ∈ m, a < c.1) ∧ Program.wf m = true := by
  simp [Program.wf]

theorem Program.wf_filter (m : Program) (n : Nat) (h : Program.wf m = true) :
    Program.wf (m.filter fun c => c.1 != n) = true := by
  induction m with
  | nil => rfl
  | cons c m ih =>
    obtain ⟨a, u⟩ := c
    obtain ⟨ha, hm⟩ := (Program.wf_cons a u m).1 h
    by_cases han : a = n
    · simpa [han] using ih hm
    · simp only [List.filter_cons, bne_iff_ne, ne_eq, han, not_false_eq_true, if_true]
      exact (Program.wf_cons ..).2 ⟨fun c hc => ha c (List.mem_filter.1 hc).1, ih hm⟩

/-- Loading a word keeps the canonical form. -/
theorem Program.wf_store (m : Program) (n : Nat) (w : ProgWord) (h : Program.wf m = true) :
    Program.wf (Program.store m n w) = true := by
  have key : ∀ m : Program, (∀ c ∈ m, c.1 ≠ n) → Program.wf m = true → Program.wf (Program.insert m n w) = true := by
    intro m
    induction m with
    | nil => exact fun _ _ => (Program.wf_cons ..).2 ⟨by simp, rfl⟩
    | cons c m ih =>
      obtain ⟨a, u⟩ := c
      intro hn h
      obtain ⟨ha, hm⟩ := (Program.wf_cons a u m).1 h
      have han : a ≠ n := hn (a, u) (by simp)
      simp only [Program.insert]
      split
      · rename_i hlt
        refine (Program.wf_cons ..).2 ⟨fun c hc => ?_, h⟩
        rcases List.mem_cons.1 hc with rfl | hc
        · exact hlt
        · exact hlt.trans (ha c hc)
      · rename_i hlt
        refine (Program.wf_cons ..).2 ⟨fun c hc => ?_, ih (fun c hc => hn c (by simp [hc])) hm⟩
        rcases (Program.mem_insert m n w c).1 hc with rfl | hc
        · show a < n
          omega
        · exact ha c hc
  exact key _ (fun c hc => by simpa using (List.mem_filter.1 hc).2) (Program.wf_filter m n h)

end Sys2Proof.Machine
end

