-- ==== Sys2Proof/Laws/Operands.lean ====
section
/-! SUPPORT. What a write of a file register and the delivery of a result do, said once for every instruction. -/

namespace Sys2Proof.Machine

/-! ## MemWrite: each field after a write -/

@[simp] theorem State.memWrite_w (s : State) (aff : Bool) (a v : Byte) :
    (s.memWrite aff a v).w = s.w := by
  unfold State.memWrite; split <;> simp_all

@[simp] theorem State.memWrite_pc (s : State) (aff : Bool) (a v : Byte) :
    (s.memWrite aff a v).pc = if fileMap s.params a = .pcl then s.pclath ++ v else s.pc := by
  unfold State.memWrite; split <;> simp_all

@[simp] theorem State.memWrite_pclath (s : State) (aff : Bool) (a v : Byte) :
    (s.memWrite aff a v).pclath = if fileMap s.params a = .pclath then v.setWidth 5 else s.pclath := by
  unfold State.memWrite; split <;> simp_all

@[simp] theorem State.memWrite_fsr (s : State) (aff : Bool) (a v : Byte) :
    (s.memWrite aff a v).fsr = if fileMap s.params a = .fsr then v else s.fsr := by
  unfold State.memWrite; split <;> simp_all

@[simp] theorem State.memWrite_intcon (s : State) (aff : Bool) (a v : Byte) :
    (s.memWrite aff a v).intcon = if fileMap s.params a = .intcon then v else s.intcon := by
  unfold State.memWrite; split <;> simp_all

@[simp] theorem State.memWrite_optionReg (s : State) (aff : Bool) (a v : Byte) :
    (s.memWrite aff a v).optionReg = if fileMap s.params a = .optionReg then v else s.optionReg := by
  unfold State.memWrite; split <;> simp_all

@[simp] theorem State.memWrite_trisA (s : State) (aff : Bool) (a v : Byte) :
    (s.memWrite aff a v).trisA = if fileMap s.params a = .trisA then v.setWidth 5 else s.trisA := by
  unfold State.memWrite; split <;> simp_all

@[simp] theorem State.memWrite_trisB (s : State) (aff : Bool) (a v : Byte) :
    (s.memWrite aff a v).trisB = if fileMap s.params a = .trisB then v else s.trisB := by
  unfold State.memWrite; split <;> simp_all

@[simp] theorem State.memWrite_latchA (s : State) (aff : Bool) (a v : Byte) :
    (s.memWrite aff a v).latchA = if fileMap s.params a = .portA then v.setWidth 5 else s.latchA := by
  unfold State.memWrite; split <;> simp_all

@[simp] theorem State.memWrite_latchB (s : State) (aff : Bool) (a v : Byte) :
    (s.memWrite aff a v).latchB = if fileMap s.params a = .portB then v else s.latchB := by
  unfold State.memWrite; split <;> simp_all

@[simp] theorem State.memWrite_tmr0 (s : State) (aff : Bool) (a v : Byte) :
    (s.memWrite aff a v).tmr0 = if fileMap s.params a = .tmr0 then v else s.tmr0 := by
  unfold State.memWrite; split <;> simp_all

@[simp] theorem State.memWrite_eedata (s : State) (aff : Bool) (a v : Byte) :
    (s.memWrite aff a v).eedata = if fileMap s.params a = .eedata then v else s.eedata := by
  unfold State.memWrite; split <;> simp_all

@[simp] theorem State.memWrite_eeadr (s : State) (aff : Bool) (a v : Byte) :
    (s.memWrite aff a v).eeadr = if fileMap s.params a = .eeadr then v else s.eeadr := by
  unfold State.memWrite; split <;> simp_all

@[simp] theorem State.memWrite_eecon1 (s : State) (aff : Bool) (a v : Byte) :
    (s.memWrite aff a v).eecon1 = if fileMap s.params a = .eecon1 then v.setWidth 5 else s.eecon1 := by
  unfold State.memWrite; split <;> simp_all

@[simp] theorem State.memWrite_stack (s : State) (aff : Bool) (a v : Byte) :
    (s.memWrite aff a v).stack = s.stack := by
  unfold State.memWrite; split <;> simp_all

@[simp] theorem State.memWrite_stackWritten (s : State) (aff : Bool) (a v : Byte) :
    (s.memWrite aff a v).stackWritten = s.stackWritten := by
  unfold State.memWrite; split <;> simp_all

@[simp] theorem State.memWrite_sp (s : State) (aff : Bool) (a v : Byte) :
    (s.memWrite aff a v).sp = s.sp := by
  unfold State.memWrite; split <;> simp_all

@[simp] theorem State.memWrite_wdt (s : State) (aff : Bool) (a v : Byte) :
    (s.memWrite aff a v).wdt = s.wdt := by
  unfold State.memWrite; split <;> simp_all

@[simp] theorem State.memWrite_psc (s : State) (aff : Bool) (a v : Byte) :
    (s.memWrite aff a v).psc = if fileMap s.params a = .tmr0 ∧ s.prescalerOnWdt = false then 0x00#8 else s.psc := by
  unfold State.memWrite; split <;> simp_all
  cases s.prescalerOnWdt <;> rfl

@[simp] theorem State.memWrite_sleeping (s : State) (aff : Bool) (a v : Byte) :
    (s.memWrite aff a v).sleeping = s.sleeping := by
  unfold State.memWrite; split <;> simp_all

@[simp] theorem State.memWrite_extA (s : State) (aff : Bool) (a v : Byte) :
    (s.memWrite aff a v).extA = s.extA := by
  unfold State.memWrite; split <;> simp_all

@[simp] theorem State.memWrite_extB (s : State) (aff : Bool) (a v : Byte) :
    (s.memWrite aff a v).extB = s.extB := by
  unfold State.memWrite; split <;> simp_all

@[simp] theorem State.memWrite_loadA (s : State) (aff : Bool) (a v : Byte) :
    (s.memWrite aff a v).loadA = s.loadA := by
  unfold State.memWrite; split <;> simp_all

@[simp] theorem State.memWrite_loadB (s : State) (aff : Bool) (a v : Byte) :
    (s.memWrite aff a v).loadB = s.loadB := by
  unfold State.memWrite; split <;> simp_all

@[simp] theorem State.memWrite_prog (s : State) (aff : Bool) (a v : Byte) :
    (s.memWrite aff a v).prog = s.prog := by
  unfold State.memWrite; split <;> simp_all

@[simp] theorem State.memWrite_params (s : State) (aff : Bool) (a v : Byte) :
    (s.memWrite aff a v).params = s.params := by
  unfold State.memWrite; split <;> simp_all

@[simp] theorem State.memWrite_env (s : State) (aff : Bool) (a v : Byte) :
    (s.memWrite aff a v).env = s.env := by
  unfold State.memWrite; split <;> simp_all

@[simp] theorem State.memWrite_afterWake (s : State) (aff : Bool) (a v : Byte) :
    (s.memWrite aff a v).afterWake = s.afterWake := by
  unfold State.memWrite; split <;> simp_all

@[simp] theorem State.memWrite_cycles (s : State) (aff : Bool) (a v : Byte) :
    (s.memWrite aff a v).cycles = if fileMap s.params a = .pcl then s.cycles + 1 else s.cycles := by
  unfold State.memWrite; split <;> simp_all

/-- STATUS after a write: only a write of STATUS itself touches it (rule R46). -/
theorem State.memWrite_status (s : State) (aff : Bool) (a v : Byte) :
    (s.memWrite aff a v).status =
      if fileMap s.params a = .status then statusWritten aff s.status v else s.status := by
  unfold State.memWrite; split <;> simp_all

/-- A general purpose register after a write (rules R64, R65). -/
theorem State.memWrite_read (s : State) (aff : Bool) (a v : Byte) (n : Nat) :
    Memory.read (s.memWrite aff a v).gpr n =
      if fileMap s.params a = .gpr n then v else Memory.read s.gpr n := by
  unfold State.memWrite; split <;> simp_all [Memory.read_write, @eq_comm _ n]

@[simp] theorem State.memWrite_flagC (s : State) (aff : Bool) (a v : Byte) :
    (s.memWrite aff a v).flagC = if fileMap s.params a = .status ∧ aff = false then v.getLsbD 0 else s.flagC := by
  simp only [State.flagC, State.memWrite_status]
  split <;> simp_all

@[simp] theorem State.memWrite_flagDC (s : State) (aff : Bool) (a v : Byte) :
    (s.memWrite aff a v).flagDC = if fileMap s.params a = .status ∧ aff = false then v.getLsbD 1 else s.flagDC := by
  simp only [State.flagDC, State.memWrite_status]
  split <;> simp_all

@[simp] theorem State.memWrite_flagZ (s : State) (aff : Bool) (a v : Byte) :
    (s.memWrite aff a v).flagZ = if fileMap s.params a = .status ∧ aff = false then v.getLsbD 2 else s.flagZ := by
  simp only [State.flagZ, State.memWrite_status]
  split <;> simp_all

@[simp] theorem State.memWrite_flagPD (s : State) (aff : Bool) (a v : Byte) :
    (s.memWrite aff a v).flagPD = s.flagPD := by
  simp only [State.flagPD, State.memWrite_status]
  split <;> simp_all

@[simp] theorem State.memWrite_flagTO (s : State) (aff : Bool) (a v : Byte) :
    (s.memWrite aff a v).flagTO = s.flagTO := by
  simp only [State.flagTO, State.memWrite_status]
  split <;> simp_all

@[simp] theorem State.memWrite_rp0 (s : State) (aff : Bool) (a v : Byte) :
    (s.memWrite aff a v).rp0 = if fileMap s.params a = .status then v.getLsbD 5 else s.rp0 := by
  simp only [State.rp0, State.memWrite_status]
  split <;> simp_all

/-! ## Delivering a result -/

/-- The flags that an instruction lists are none exactly when it lists no value. -/
theorem FlagUpdate.affectsAny_eq_false (u : FlagUpdate) : u.affectsAny = false ↔ u = {} := by
  obtain ⟨c, dc, z⟩ := u
  cases c <;> cases dc <;> cases z <;> simp [FlagUpdate.affectsAny]

theorem flagAfter_eq (listed : Option Bool) (asData writtenBit old : Bool) :
    flagAfter listed asData writtenBit old = listed.getD (if asData then writtenBit else old) := by
  cases listed <;> rfl

/-- Listed flags lie below bits 7:5 of STATUS. -/
theorem State.setFlags_bankBits (s : State) (u : FlagUpdate) :
    (s.setFlags u).status.extractLsb' 5 3 = s.status.extractLsb' 5 3 := by
  apply extract_hi3_congr
  intro i h5 h8
  have : i ≠ 0 ∧ i ≠ 1 ∧ i ≠ 2 := by omega
  simp [this]

/-- Delivering a result to W. -/
theorem State.deliver_w (s : State) (a : Byte) (r : AluResult) :
    Delivers s (s.deliver .w a r) none r.value r.flags := by
  constructor <;> simp [State.deliver, flagAfter_eq, -State.setFlags_status, State.setFlags_bankBits]

theorem State.memWrite_bankBits (s : State) (aff : Bool) (a v : Byte) :
    (s.memWrite aff a v).status.extractLsb' 5 3 =
      (if fileMap s.params a = .status then v else s.status).extractLsb' 5 3 := by
  rw [State.memWrite_status]
  split
  · exact extract_hi3_congr fun i h5 h8 => by simp [h5, h8]
  · rfl

/-- Delivering a result to the file register at data address `a`. -/
theorem State.deliver_file (s : State) (a : Byte) (r : AluResult) :
    Delivers s (s.deliver .file a r) (some (fileMap s.params a)) r.value r.flags := by
  have hd : s.deliver .file a r = (s.advance.memWrite r.flags.affectsAny a r.value).setFlags r.flags := rfl
  have hp : s.advance.prescalerOnWdt = s.prescalerOnWdt := rfl
  rw [hd]
  constructor
  case cycles => simp only [State.setFlags_cycles, State.memWrite_cycles, State.advance_params, State.advance_cycles,
      Option.some.injEq]; split <;> simp_all
  all_goals
    try simp only [Option.some.injEq, reduceCtorEq, if_false]
    simp [flagAfter_eq, FlagUpdate.affectsAny_eq_false, hp, -State.setFlags_status, State.setFlags_bankBits,
      State.memWrite_bankBits, State.memWrite_read]
    try (intros; congr)

/-- A byte-oriented operation delivers the result of its operand (rule R120). -/
theorem State.byteOp_delivers (s : State) (f : Designator) (d : Dest) (op : Byte → AluResult) :
    Delivers s (s.byteOp f d op) (s.dest f d) (op (s.memRead (s.ea f))).value (op (s.memRead (s.ea f))).flags := by
  cases d
  · exact s.deliver_w _ _
  · exact s.deliver_file _ _

/-- A literal operation delivers its result to W. -/
theorem State.literalOp_delivers (s : State) (r : AluResult) : Delivers s (s.literalOp r) none r.value r.flags :=
  s.deliver_w 0#8 r

end Sys2Proof.Machine
end

