-- ==== Sys2Proof/Laws/Ops.lean ====
section
/-! SUPPORT. What the shared operations of Machine/Ops.lean do, said once each. -/

namespace Sys2Proof.Machine

/-! ## The return stack -/

theorem sp_succ_pred (sp : BitVec 3) : sp + 1#3 - 1#3 = sp := by simp

/-- A pushed address is the top of stack (rule R31). -/
@[simp] theorem State.push_tos (s : State) (v : ProgAddr) : (s.push v).tos = v := by
  simp [State.tos]

/-- The top of stack holds a value right after a push (rule R32). -/
@[simp] theorem State.push_tosWritten (s : State) (v : ProgAddr) : (s.push v).tosWritten = true := by
  have : s.sp.toNat < 8 := s.sp.isLt
  simp [State.tosWritten, this]

/-- What a pop into the program counter comes to (rule R32). -/
theorem State.popToPc_eq_next (s t : State) :
    s.popToPc = .next t ↔ s.tosWritten = true ∧ t = s.advance.dropTop.jump s.tos := by
  unfold State.popToPc
  split
  · rename_i h
    simp [h, eq_comm]
  · rename_i h
    simp [h]

/-- A pop stops in one way only: the top of stack holds no value written since reset (rule R32). -/
theorem State.popToPc_refused (s : State) (h : s.tosWritten = false) : s.popToPc = .refused .stackUnderflow := by
  simp [State.popToPc, h]

/-! ## Skips -/

/-- What DECFSZ and INCFSZ come to (rules R29, R127, R129). -/
theorem State.stepAndSkip_eq_next (s t : State) (f : Designator) (d : Dest) (r : Byte) :
    s.stepAndSkip f d r = .next t ↔
      ¬(d = .file ∧ s.fileReg f = .pcl) ∧ t = (s.deliver d (s.ea f) (resultOnly r)).skipIf (r == 0#8) := by
  unfold State.stepAndSkip
  split
  · rename_i h
    simp [h]
  · rename_i h
    exact ⟨fun e => ⟨h, (Host.Outcome.next.inj e).symm⟩, fun e => e.2 ▸ rfl⟩

/-! ## The environment -/

/-- A quiet move changes nothing (rule R68). -/
@[simp] theorem State.applyMove_quiet (s : State) : s.applyMove {} = s := by
  have h : s.flagsRaised {} = s.intcon := by
    apply BitVec.eq_of_getLsbD_eq
    intro i hi
    simp [State.flagsRaised]
  simp [State.applyMove, h]

/-- With no moves to come the boundary leaves the state as it is. -/
theorem State.moved_of_env_nil {s : State} (h : s.env = []) : s.moved = s := by
  simp only [State.moved, State.nextMove, h, List.headD_nil, State.applyMove_quiet, List.tail_nil]
  rw [← h]

/-- A move of the environment leaves all that rule R68 says it never changes. -/
theorem State.applyMove_sameCore (s : State) (m : EnvMove) : SameCore s (s.applyMove m) := by
  constructor <;> simp [State.applyMove]

end Sys2Proof.Machine
end

