-- ==== Sys2Proof/Laws/PerInstr.lean ====
section
/-! SUPPORT. A fact about every instruction's encoding, constructor by constructor: the assembler writes each don't-care
bit as 0 (rules R97, R105). -/

namespace Sys2Proof.Laws.CanonicalWord

open Sys2Proof

/-- The word `encode` writes has 0 in every don't-care position. -/
def Statement (i : Instr) : Prop := encode i &&& ~~~(careMask i) = 0#14

/-- An instruction with no don't-care bit. -/
theorem of_full {i : Instr} (h : careMask i = 0x3FFF#14) : Statement i := by
  have : ~~~(0x3FFF#14) = 0#14 := by decide
  simp [Statement, h, this]

theorem addwf (f : Designator) (d : Dest) : Statement (.addwf f d) := of_full rfl

theorem andwf (f : Designator) (d : Dest) : Statement (.andwf f d) := of_full rfl

theorem clrf (f : Designator) : Statement (.clrf f) := of_full rfl

theorem clrw : Statement .clrw := by
  unfold Statement
  decide

theorem comf (f : Designator) (d : Dest) : Statement (.comf f d) := of_full rfl

theorem decf (f : Designator) (d : Dest) : Statement (.decf f d) := of_full rfl

theorem decfsz (f : Designator) (d : Dest) : Statement (.decfsz f d) := of_full rfl

theorem incf (f : Designator) (d : Dest) : Statement (.incf f d) := of_full rfl

theorem incfsz (f : Designator) (d : Dest) : Statement (.incfsz f d) := of_full rfl

theorem iorwf (f : Designator) (d : Dest) : Statement (.iorwf f d) := of_full rfl

theorem movf (f : Designator) (d : Dest) : Statement (.movf f d) := of_full rfl

theorem movwf (f : Designator) : Statement (.movwf f) := of_full rfl

theorem nop : Statement .nop := by
  unfold Statement
  decide

theorem rlf (f : Designator) (d : Dest) : Statement (.rlf f d) := of_full rfl

theorem rrf (f : Designator) (d : Dest) : Statement (.rrf f d) := of_full rfl

theorem subwf (f : Designator) (d : Dest) : Statement (.subwf f d) := of_full rfl

theorem swapf (f : Designator) (d : Dest) : Statement (.swapf f d) := of_full rfl

theorem xorwf (f : Designator) (d : Dest) : Statement (.xorwf f d) := of_full rfl

theorem bcf (f : Designator) (b : BitIndex) : Statement (.bcf f b) := of_full rfl

theorem bsf (f : Designator) (b : BitIndex) : Statement (.bsf f b) := of_full rfl

theorem btfsc (f : Designator) (b : BitIndex) : Statement (.btfsc f b) := of_full rfl

theorem btfss (f : Designator) (b : BitIndex) : Statement (.btfss f b) := of_full rfl

theorem addlw : ∀ k : Byte, Statement (.addlw k) := by
  unfold Statement
  decide

theorem andlw (k : Byte) : Statement (.andlw k) := of_full rfl

theorem call (k : BitVec 11) : Statement (.call k) := of_full rfl

theorem clrwdt : Statement (.clrwdt) := of_full rfl

theorem goto (k : BitVec 11) : Statement (.goto k) := of_full rfl

theorem iorlw (k : Byte) : Statement (.iorlw k) := of_full rfl

theorem movlw : ∀ k : Byte, Statement (.movlw k) := by
  unfold Statement
  decide

theorem retfie : Statement (.retfie) := of_full rfl

theorem retlw : ∀ k : Byte, Statement (.retlw k) := by
  unfold Statement
  decide

theorem ret : Statement (.ret) := of_full rfl

theorem sleep : Statement (.sleep) := of_full rfl

theorem sublw : ∀ k : Byte, Statement (.sublw k) := by
  unfold Statement
  decide

theorem xorlw (k : Byte) : Statement (.xorlw k) := of_full rfl

theorem option : Statement (.option) := of_full rfl

theorem tris (f : BitVec 3) : Statement (.tris f) := of_full rfl

end Sys2Proof.Laws.CanonicalWord
end

