-- ==== Sys2Proof/Laws/Step.lean ====
section
/-! SUPPORT. What one step can do, said once: a reset or time-out, a wake-up or a stretch of sleep, an interrupt entry,
or the execution of the decoded instruction. -/

namespace Sys2Proof.Machine

/-- Every way a step can answer a next state, with what holds in each. -/
inductive StepCase (s t : State) : Prop where
  /-- A reset or an effective time-out (rules R204 to R206, R220). -/
  | event (h : s.moved.eventOutcome s.nextMove.event = some t)
  /-- The core sleeps on (rule R206). -/
  | asleep (h : s.moved.eventOutcome s.nextMove.event = none) (hs : s.moved.sleeping = true)
      (hw : s.moved.wakePending = false) (ht : t = s.moved)
  /-- An interrupt source wakes the core (rule R206). -/
  | wake (h : s.moved.eventOutcome s.nextMove.event = none) (hs : s.moved.sleeping = true)
      (hw : s.moved.wakePending = true) (ht : t = s.moved.wakeByInterrupt)
  /-- Interrupt entry (rule R196). -/
  | entry (h : s.moved.eventOutcome s.nextMove.event = none) (hs : s.moved.sleeping = false)
      (hr : s.moved.request = true) (ha : s.moved.afterWake = false) (ht : t = s.moved.takeInterrupt)
  /-- The decoded instruction runs (00_scope.md section 6.5). -/
  | instr (i : Instr) (w : ProgWord) (h : s.moved.eventOutcome s.nextMove.event = none)
      (hs : s.moved.sleeping = false) (hr : (s.moved.request && !s.moved.afterWake) = false)
      (hw : s.moved.progRead s.moved.pc = some w) (hd : decode w = .instr i)
      (ht : exec i s.moved.endWake = .next t)

/-- What the boundary comes to. -/
theorem State.boundary_eq (s : State) :
    s.boundary = match s.moved.eventOutcome s.nextMove.event with
      | some u => .settled u
      | none => s.moved.interruptOutcome := rfl

/-- The inversion of a step that answers a next state. -/
theorem step_cases {s t : State} (h : step s = .next t) : StepCase s t := by
  unfold step State.cycle at h
  rw [State.boundary_eq] at h
  cases he : s.moved.eventOutcome s.nextMove.event with
  | some u =>
    simp only [he, Host.Outcome.next.injEq] at h
    exact .event (h ▸ he)
  | none =>
    simp only [he] at h
    unfold State.interruptOutcome at h
    by_cases hs : s.moved.sleeping = true
    · by_cases hw : s.moved.wakePending = true
      · simp only [hs, hw, if_true, Host.Outcome.next.injEq] at h
        exact .wake he hs hw h.symm
      · simp only [hs, hw, if_true, if_false, Bool.false_eq_true, Host.Outcome.next.injEq] at h
        exact .asleep he hs (by simpa using hw) h.symm
    · by_cases hr : (s.moved.request && !s.moved.afterWake) = true
      · simp only [hs, hr, if_true, if_false, Bool.false_eq_true, Host.Outcome.next.injEq] at h
        obtain ⟨hr, ha⟩ := Bool.and_eq_true_iff.1 hr
        exact .entry he (by simpa using hs) hr (by simpa using ha) h.symm
      · simp only [hs, hr, if_false, Bool.false_eq_true] at h
        unfold State.runFetched at h
        split at h
        · cases h
        · rename_i w hw
          split at h
          · rename_i i hd
            exact .instr i w he (by simpa using hs) (by simpa using hr) hw hd h
          · cases h

end Sys2Proof.Machine
end

