-- ==== Sys2Proof/Tests/Slice0.lean ====
section
/-! SUPPORT. Small tests: the WellFormed smoke test, decoding of words written out from the spec, at most two steps per
instruction with expected values from 95_test_vectors.md, and one witness per statement that has hypotheses. -/

namespace Sys2Proof.Tests

open Sys2Proof Sys2Proof.Machine

/-! ## Helpers -/

/-- The start of the vectors of 95_test_vectors.md part 2: `PC = 0100`, TO = PD = 1, bank 0, the given W, flags (Z DC C) and
register 0x20. -/
def at100 (w : Byte) (zdcc : BitVec 3) (r20 : Byte) : State :=
  { State.reset with pc := 0x100#13, w := w, status := 0b00011#5 ++ zdcc, gpr := Memory.write [] 0x20 r20 }

/-- The outcome is a next state with the given property. -/
def leaves (r : Result) (p : State → Bool) : Bool :=
  match r with
  | .next t => p t
  | .fault _ => false
  | .refused _ => false

/-- Register 0x20. -/
def r20 (s : State) : Byte := Memory.read s.gpr 0x20

/-- Z, DC and C. -/
def zdcc (s : State) : BitVec 3 := s.status.extractLsb' 0 3

/-- A stack that holds the given addresses, pushed in the given order. -/
def pushed (s : State) (vs : List ProgAddr) : State := vs.foldl State.push s

/-! ## WellFormed (rule R102: TRIS is 5, 6 or 7) -/

theorem test_tris_0_to_4_ill_formed :
    (Instr.tris 0#3).wellFormed = false ∧ (Instr.tris 3#3).wellFormed = false ∧ (Instr.tris 4#3).wellFormed = false := by
  decide

theorem test_tris_5_to_7_well_formed :
    (Instr.tris 5#3).wellFormed = true ∧ (Instr.tris 6#3).wellFormed = true ∧ (Instr.tris 7#3).wellFormed = true := by
  decide

/-! ## Decoding (rule R99's patterns, bits written MSB first; 95_test_vectors.md section 3) -/

theorem test_decode_byte_first_half :
    decode 0b00011110100001#14 = .instr (.addwf 0x21#7 .file) ∧ decode 0b00010101111111#14 = .instr (.andwf 0x7F#7 .w) ∧
    decode 0b00000110000000#14 = .instr (.clrf 0x00#7) ∧ decode 0b00000101111111#14 = .instr .clrw ∧
    decode 0b00100110001100#14 = .instr (.comf 0x0C#7 .file) ∧ decode 0b00001100100000#14 = .instr (.decf 0x20#7 .w) ∧
    decode 0b00101110100000#14 = .instr (.decfsz 0x20#7 .file) ∧ decode 0b00101010100000#14 = .instr (.incf 0x20#7 .file) ∧
    decode 0b00111101000000#14 = .instr (.incfsz 0x40#7 .w) := by decide

theorem test_decode_byte_second_half :
    decode 0b00010010100000#14 = .instr (.iorwf 0x20#7 .file) ∧ decode 0b00100000100000#14 = .instr (.movf 0x20#7 .w) ∧
    decode 0b00000011111111#14 = .instr (.movwf 0x7F#7) ∧ decode 0b00000001100000#14 = .instr .nop ∧
    decode 0b00110110100000#14 = .instr (.rlf 0x20#7 .file) ∧ decode 0b00110000100000#14 = .instr (.rrf 0x20#7 .w) ∧
    decode 0b00001010100000#14 = .instr (.subwf 0x20#7 .file) ∧ decode 0b00111000100000#14 = .instr (.swapf 0x20#7 .w) ∧
    decode 0b00011010100000#14 = .instr (.xorwf 0x20#7 .file) := by decide

theorem test_decode_bit :
    decode 0b01001111111111#14 = .instr (.bcf 0x7F#7 7#3) ∧ decode 0b01011010000011#14 = .instr (.bsf 0x03#7 5#3) ∧
    decode 0b01100010000011#14 = .instr (.btfsc 0x03#7 1#3) ∧ decode 0b01110000000000#14 = .instr (.btfss 0x00#7 0#3) := by
  decide

theorem test_decode_literal :
    decode 0b11111111111111#14 = .instr (.addlw 0xFF#8) ∧ decode 0b11100101011111#14 = .instr (.andlw 0x5F#8) ∧
    decode 0b10011111111111#14 = .instr (.call 0x7FF#11) ∧ decode 0b00000001100100#14 = .instr .clrwdt ∧
    decode 0b10100000000000#14 = .instr (.goto 0x000#11) ∧ decode 0b11100000110101#14 = .instr (.iorlw 0x35#8) ∧
    decode 0b11001101011010#14 = .instr (.movlw 0x5A#8) ∧ decode 0b00000000001001#14 = .instr .retfie ∧
    decode 0b11010010101011#14 = .instr (.retlw 0xAB#8) ∧ decode 0b00000000001000#14 = .instr .ret ∧
    decode 0b00000001100011#14 = .instr .sleep ∧ decode 0b11110111111111#14 = .instr (.sublw 0xFF#8) ∧
    decode 0b11101010101111#14 = .instr (.xorlw 0xAF#8) := by decide

theorem test_decode_option_tris :
    decode 0b00000001100010#14 = .instr .option ∧ decode 0b00000001100101#14 = .instr (.tris 5#3) ∧
    decode 0b00000001100110#14 = .instr (.tris 6#3) ∧ decode 0b00000001100111#14 = .instr (.tris 7#3) := by decide

theorem test_decode_unassigned :
    decode 0x0001#14 = .unassigned 0x0001#14 ∧ decode 0x0061#14 = .unassigned 0x0061#14 ∧
    decode 0x0010#14 = .unassigned 0x0010#14 ∧ decode 0x3B00#14 = .unassigned 0x3B00#14 := by decide

theorem test_decodeTableWord :
    decodeTableWord 16 0x0066 = some (.tris 6#3) ∧ decodeTableWord 16 0x3BFF = none ∧ decodeTableWord 16 0x4000 = none := by
  decide

/-! ## Byte-oriented instructions (95_test_vectors.md 1.1, 2.1 to 2.4, 2.6, 2.8) -/

theorem test_addwf :
    leaves (exec (.addwf 0x20#7 .file) (at100 0x01#8 0#3 0x0F#8)) (fun t => r20 t == 0x10#8 && zdcc t == 0b010#3) ∧
    leaves (exec (.addwf 0x20#7 .w) (at100 0xFF#8 0#3 0xFF#8)) (fun t => t.w == 0xFE#8 && zdcc t == 0b011#3) := by decide

/-- `ADDWF PCL, 1` at 01FE: the sum carries, the high byte does not. -/
theorem test_addwf_pcl :
    leaves (exec (.addwf 0x02#7 .file) { at100 0x01#8 0#3 0x00#8 with pc := 0x1FE#13, pclath := 0x01#5 })
      (fun t => t.pc == 0x0100#13 && zdcc t == 0b111#3 && t.cycles == 2) := by decide

theorem test_andwf :
    leaves (exec (.andwf 0x04#7 .file) { at100 0x17#8 0#3 0#8 with fsr := 0xC2#8 }) (fun t => t.fsr == 0x02#8 && t.w == 0x17#8) ∧
    leaves (exec (.andwf 0x20#7 .w) (at100 0x0F#8 3#3 0xF0#8)) (fun t => t.w == 0x00#8 && zdcc t == 0b111#3) := by decide

theorem test_clrf :
    leaves (exec (.clrf 0x20#7) (at100 0x5A#8 0#3 0x5A#8)) (fun t => r20 t == 0x00#8 && zdcc t == 0b100#3) ∧
    leaves (exec (.clrf 0x03#7) { at100 0#8 0#3 0#8 with status := 0b00111011#8 }) (fun t => t.status == 0x1F#8) := by decide

theorem test_clrw : leaves (exec .clrw (at100 0x5A#8 0#3 0#8)) (fun t => t.w == 0x00#8 && zdcc t == 0b100#3) := by decide

theorem test_comf :
    leaves (exec (.comf 0x20#7 .w) (at100 0#8 0#3 0x13#8)) (fun t => t.w == 0xEC#8 && r20 t == 0x13#8) ∧
    leaves (exec (.comf 0x20#7 .file) (at100 0#8 0#3 0xFF#8)) (fun t => r20 t == 0x00#8 && zdcc t == 0b100#3) := by decide

theorem test_decf :
    leaves (exec (.decf 0x20#7 .file) (at100 0#8 1#3 0x00#8)) (fun t => r20 t == 0xFF#8 && zdcc t == 0b001#3) ∧
    leaves (exec (.decf 0x20#7 .file) (at100 0#8 0#3 0x01#8)) (fun t => r20 t == 0x00#8 && zdcc t == 0b100#3) := by decide

theorem test_decfsz :
    leaves (exec (.decfsz 0x20#7 .file) (at100 0#8 0#3 0x01#8))
      (fun t => r20 t == 0x00#8 && t.pc == 0x102#13 && zdcc t == 0#3 && t.cycles == 2) ∧
    leaves (exec (.decfsz 0x20#7 .file) (at100 0#8 0#3 0x00#8))
      (fun t => r20 t == 0xFF#8 && t.pc == 0x101#13 && t.cycles == 1) := by decide

theorem test_decfsz_pcl : exec (.decfsz 0x02#7 .file) (at100 0#8 0#3 0#8) = .refused .skipOnPcl := rfl

theorem test_incf :
    leaves (exec (.incf 0x20#7 .file) (at100 0#8 0#3 0xFF#8)) (fun t => r20 t == 0x00#8 && zdcc t == 0b100#3) ∧
    leaves (exec (.incf 0x00#7 .file) { at100 0#8 0#3 0x09#8 with fsr := 0xA0#8 }) (fun t => r20 t == 0x0A#8) := by decide

theorem test_incfsz :
    leaves (exec (.incfsz 0x20#7 .w) (at100 0#8 0#3 0xFF#8))
      (fun t => t.w == 0x00#8 && r20 t == 0xFF#8 && t.pc == 0x102#13) ∧
    leaves (exec (.incfsz 0x20#7 .file) (at100 0#8 0#3 0xFE#8)) (fun t => r20 t == 0xFF#8 && t.pc == 0x101#13) := by decide

theorem test_iorwf :
    leaves (exec (.iorwf 0x20#7 .w) (at100 0x91#8 0#3 0x13#8)) (fun t => t.w == 0x93#8 && zdcc t == 0#3) ∧
    leaves (exec (.iorwf 0x20#7 .file) (at100 0#8 0#3 0#8)) (fun t => r20 t == 0x00#8 && zdcc t == 0b100#3) := by decide

theorem test_movf :
    leaves (exec (.movf 0x03#7 .w) (at100 0#8 3#3 0#8)) (fun t => t.w == 0x1B#8 && zdcc t == 0b011#3) ∧
    leaves (exec (.movf 0x02#7 .w) { at100 5#8 0#3 0#8 with pc := 0x1FF#13 })
      (fun t => t.w == 0x00#8 && t.pc == 0x200#13 && zdcc t == 0b100#3) := by decide

theorem test_movwf :
    leaves (exec (.movwf 0x03#7) { at100 0xFF#8 0#3 0#8 with status := 0x18#8 }) (fun t => t.status == 0xFF#8) ∧
    leaves (exec (.movwf 0x02#7) { at100 0x40#8 0#3 0#8 with pclath := 0x02#5 }) (fun t => t.pc == 0x240#13 && t.cycles == 2) := by
  decide

theorem test_nop : exec .nop (at100 7#8 5#3 9#8) = .next { at100 7#8 5#3 9#8 with pc := 0x101#13, cycles := 1 } := rfl

theorem test_rlf :
    leaves (exec (.rlf 0x20#7 .w) (at100 0#8 0#3 0b11100110#8)) (fun t => t.w == 0b11001100#8 && zdcc t == 1#3) ∧
    leaves (exec (.rlf 0x20#7 .file) (at100 0#8 1#3 0x00#8)) (fun t => r20 t == 0x01#8 && zdcc t == 0#3) := by decide

theorem test_rrf :
    leaves (exec (.rrf 0x20#7 .w) (at100 0#8 0#3 0b11100110#8)) (fun t => t.w == 0b01110011#8 && zdcc t == 0#3) ∧
    leaves (exec (.rrf 0x20#7 .file) (at100 0#8 0#3 0x01#8)) (fun t => r20 t == 0x00#8 && zdcc t == 1#3) := by decide

theorem test_subwf :
    leaves (exec (.subwf 0x20#7 .file) (at100 2#8 0#3 1#8)) (fun t => r20 t == 0xFF#8 && zdcc t == 0b000#3) ∧
    leaves (exec (.subwf 0x20#7 .file) (at100 2#8 0#3 2#8)) (fun t => r20 t == 0x00#8 && zdcc t == 0b111#3) := by decide

theorem test_swapf :
    leaves (exec (.swapf 0x20#7 .w) (at100 0#8 0#3 0xA5#8)) (fun t => t.w == 0x5A#8 && r20 t == 0xA5#8) ∧
    leaves (exec (.swapf 0x20#7 .file) (at100 0#8 0#3 0x0F#8)) (fun t => r20 t == 0xF0#8) := by decide

theorem test_xorwf :
    leaves (exec (.xorwf 0x20#7 .file) (at100 0xB5#8 0#3 0xAF#8)) (fun t => r20 t == 0x1A#8 && t.w == 0xB5#8) ∧
    leaves (exec (.xorwf 0x20#7 .w) (at100 0xAA#8 0#3 0xAA#8)) (fun t => t.w == 0x00#8 && zdcc t == 0b100#3) := by decide

/-! ## Bit-oriented instructions (95_test_vectors.md 1.2, 2.5, 2.6) -/

theorem test_bcf :
    leaves (exec (.bcf 0x20#7 7#3) (at100 0#8 0#3 0xC7#8)) (fun t => r20 t == 0x47#8) ∧
    leaves (exec (.bcf 0x03#7 4#3) (at100 0#8 0#3 0#8)) (fun t => t.status == 0x18#8) := by decide

theorem test_bsf :
    leaves (exec (.bsf 0x20#7 7#3) (at100 0#8 0#3 0x0A#8)) (fun t => r20 t == 0x8A#8) ∧
    leaves (exec (.bsf 0x03#7 5#3) (at100 0#8 0#3 0#8)) (fun t => t.status == 0x38#8) := by decide

theorem test_btfsc :
    leaves (exec (.btfsc 0x20#7 7#3) (at100 0#8 0#3 0x7F#8)) (fun t => t.pc == 0x102#13 && t.cycles == 2) ∧
    leaves (exec (.btfsc 0x20#7 0#3) (at100 0#8 0#3 0x01#8)) (fun t => t.pc == 0x101#13 && t.cycles == 1) := by decide

theorem test_btfss :
    leaves (exec (.btfss 0x20#7 7#3) (at100 0#8 0#3 0x80#8)) (fun t => t.pc == 0x102#13 && t.cycles == 2) ∧
    leaves (exec (.btfss 0x20#7 7#3) (at100 0#8 0#3 0x7F#8)) (fun t => t.pc == 0x101#13 && t.cycles == 1) := by decide

/-! ## Literal and control instructions (95_test_vectors.md 1.3, 2.1, 2.2, 2.7, 2.9) -/

theorem test_addlw :
    leaves (exec (.addlw 0x15#8) (at100 0x10#8 7#3 0#8)) (fun t => t.w == 0x25#8 && zdcc t == 0#3) ∧
    leaves (exec (.addlw 0x01#8) (at100 0xFF#8 0#3 0#8)) (fun t => t.w == 0x00#8 && zdcc t == 7#3) := by decide

theorem test_andlw : leaves (exec (.andlw 0x5F#8) (at100 0xA3#8 7#3 0#8)) (fun t => t.w == 0x03#8 && zdcc t == 3#3) := by decide

theorem test_call :
    leaves (exec (.call 0x7FF#11) { at100 0#8 0#3 0#8 with pc := 0x1FFF#13, pclath := 0x18#5 })
      (fun t => t.pc == 0x1FFF#13 && t.tos == 0x0000#13 && t.cycles == 2) ∧
    leaves (exec (.call 0x000#11) { at100 0#8 0#3 0#8 with pclath := 0x08#5 })
      (fun t => t.pc == 0x0800#13 && t.tos == 0x0101#13 && t.pclath == 0x08#5) := by decide

theorem test_clrwdt :
    leaves (exec .clrwdt { at100 0#8 0#3 0#8 with status := 0x00#8, wdt := 9#8, psc := 9#8 })
      (fun t => t.status == 0x18#8 && t.wdt == 0#8 && t.psc == 0#8) := by decide

theorem test_goto : leaves (exec (.goto 0x7FF#11) { at100 0#8 0#3 0#8 with pclath := 0x1F#5 }) (fun t => t.pc == 0x1FFF#13) := by
  decide

theorem test_iorlw : leaves (exec (.iorlw 0x35#8) (at100 0x9A#8 4#3 0#8)) (fun t => t.w == 0xBF#8 && zdcc t == 0#3) := by decide

theorem test_movlw : leaves (exec (.movlw 0x00#8) (at100 0x5A#8 0#3 0#8)) (fun t => t.w == 0x00#8 && zdcc t == 0#3) := by decide

theorem test_retfie :
    leaves (exec .retfie { pushed (at100 0#8 0#3 0#8) [0x123#13] with intcon := 0x10#8 })
      (fun t => t.pc == 0x123#13 && t.intcon == 0x90#8) := by decide

theorem test_retlw :
    leaves (exec (.retlw 0x00#8) (pushed (at100 0x5A#8 0#3 0#8) [0x1ABC#13]))
      (fun t => t.w == 0x00#8 && t.pc == 0x1ABC#13 && zdcc t == 0#3) := by decide

theorem test_return :
    leaves (exec .ret (pushed (at100 0#8 0#3 0#8) [0x456#13, 0x123#13])) (fun t => t.pc == 0x123#13 && t.tos == 0x456#13) ∧
    exec .ret (at100 0#8 0#3 0#8) = .refused .stackUnderflow := ⟨by decide, rfl⟩

theorem test_sleep :
    leaves (exec .sleep { at100 0#8 0#3 0#8 with status := 0x08#8, wdt := 9#8 })
      (fun t => t.status == 0x10#8 && t.wdt == 0#8 && t.sleeping && t.pc == 0x101#13) := by decide

theorem test_sublw :
    leaves (exec (.sublw 0x02#8) (at100 0x03#8 7#3 0#8)) (fun t => t.w == 0xFF#8 && zdcc t == 0#3) ∧
    leaves (exec (.sublw 0x10#8) (at100 0x01#8 0#3 0#8)) (fun t => t.w == 0x0F#8 && zdcc t == 1#3) := by decide

theorem test_xorlw : leaves (exec (.xorlw 0xAF#8) (at100 0xB5#8 4#3 0#8)) (fun t => t.w == 0x1A#8 && zdcc t == 0#3) := by decide

/-! ## OPTION and TRIS (95_test_vectors.md 2.9) -/

theorem test_option : leaves (exec .option (at100 0xD7#8 0#3 0#8)) (fun t => t.optionReg == 0xD7#8 && t.w == 0xD7#8) := by decide

theorem test_tris :
    leaves (exec (.tris 6#3) (at100 0x0F#8 0#3 0#8)) (fun t => t.trisB == 0x0F#8) ∧
    leaves (exec (.tris 5#3) { at100 0xFF#8 0#3 0#8 with trisA := 0#5 }) (fun t => t.trisA == 0x1F#5) := by decide

theorem test_tris_7 : exec (.tris 7#3) (at100 0#8 0#3 0#8) = .refused .trisNoSuchPort := rfl

/-! ## The whole machine (95_test_vectors.md 2.10; rules R60, R66, R206) -/

/-- A boundary with INTCON = A4 enters the handler: stk = [0200, 0101], INTCON = 24, pc = 0004. -/
theorem test_interrupt_entry :
    leaves (step { pushed State.reset [0x101#13] with pc := 0x200#13, intcon := 0xA4#8 })
      (fun t => t.pc == 0x0004#13 && t.tos == 0x200#13 && t.stackEntry 1 == 0x101#13 && t.intcon == 0x24#8) := by decide

/-- Program P5's boundary: INTCON is 90 and the environment's move sets INTF, so this very step is the entry. -/
theorem test_interrupt_raised_by_this_boundary :
    leaves (step { State.reset with pc := 0x014#13, intcon := 0x90#8, env := [{ setIntf := true }] })
      (fun t => t.pc == 0x0004#13 && t.tos == 0x014#13 && t.intcon == 0x12#8) := by decide

/-- The watchdog's time-out in SLEEP wakes the core at the next instruction, without a reset. -/
theorem test_watchdog_wakes :
    leaves (step { State.reset with pc := 0x101#13, sleeping := true, status := 0x10#8
                                    params := { Config.defaultParams with wdtEnabled := true }
                                    env := [{ event := some (.watchdog false) }] })
      (fun t => t.pc == 0x101#13 && t.status == 0x00#8 && !t.sleeping) := by decide

/-- MCLR while running (95_test_vectors.md 2.10). -/
theorem test_mclr :
    leaves (step { State.reset with pc := 0x123#13, w := 0x5A#8, status := 0b00111100#8, pclath := 0x1F#5, intcon := 0x90#8
                                    env := [{ event := some (.mclr false) }] })
      (fun t => t.pc == 0#13 && t.w == 0x5A#8 && t.status == 0b00011100#8 && t.pclath == 0#5 && t.intcon == 0x00#8) := by
  decide

/-- Rule R66's example: the latch is 1 for an input pin that is driven low, and BSF of another bit writes back a 0. -/
theorem test_port_read_modify_write :
    leaves (exec (.bsf 0x06#7 0#3) { State.reset with latchB := 0x80#8, extB := 0x00#8 }) (fun t => t.latchB == 0x01#8) := by
  decide

/-- A power-on reset without draws is the state after reset (rule R50, log entry 1). -/
theorem test_power_on_is_reset : State.reset.powerOnReset {} = State.reset := by decide

/-- The step fetches the word that `withFetchWord` stores: `MOVLW 0x5A` right after reset. -/
theorem test_withFetchWord : leaves (step (State.reset.withFetchWord 16 0x305A)) (fun t => t.w == 0x5A#8 && t.pc == 1#13) := by
  decide

/-! ## Witnesses: the hypotheses of each statement can be met -/

/-- A machine about to run the word `w` at address 0. -/
def ready (w : ProgWord) : State := { State.reset with prog := [(0, w)] }

/-- A machine about to run a RETFIE that has an address to return to. -/
def inHandler : State := pushed (ready 0x0009#14) [0x0123#13]

/-- A machine with the given INTCON, about to run a NOP. -/
def withIntcon (v : Byte) : State := { ready 0x0000#14 with intcon := v }

/-- A machine that sleeps, with the given INTCON. -/
def asleep (v : Byte) : State := { withIntcon v with sleeping := true }

theorem witness_DecodeInvertsEncode :
    (Instr.tris 5#3).wellFormed = true ∧ (Instr.tris 7#3).wellFormed = true ∧ (Instr.addwf 0x7F#7 .file).wellFormed = true := by
  decide

theorem witness_DontCareBitsNeverMatter : (Instr.movlw 0xFF#8).wellFormed = true ∧ Instr.clrw.wellFormed = true := by decide

theorem witness_UnassignedWordsAreTheListedOnes :
    decode 0x0001#14 = .unassigned 0x0001#14 ∧ decode 0x3BFF#14 = .unassigned 0x3BFF#14 := by decide

theorem witness_StepRunsTheDecodedInstruction :
    (ready 0#14).moved.eventOutcome (ready 0#14).nextMove.event = none ∧ (ready 0#14).env = [] ∧
    (ready 0#14).sleeping = false ∧ (ready 0#14).moved.request = false ∧ (ready 0#14).request = false ∧
    (ready 0#14).progRead (ready 0#14).pc = some 0#14 ∧ decode 0#14 = .instr .nop := by decide

theorem witness_StepRunsTheDecodedInstruction_after_wake :
    let s := { withIntcon 0x92#8 with afterWake := true }
    s.env = [] ∧ s.sleeping = false ∧ s.request = true ∧ s.afterWake = true ∧ s.progRead s.pc = some 0#14 ∧
    s.moved.eventOutcome s.nextMove.event = none := by decide

theorem witness_StepStopsWhereNoInstructionStands :
    State.reset.env = [] ∧ State.reset.sleeping = false ∧ State.reset.request = false ∧
    State.reset.progRead State.reset.pc = none ∧ (ready 0x3BFF#14).env = [] ∧ (ready 0x3BFF#14).sleeping = false ∧
    (ready 0x3BFF#14).request = false ∧ (ready 0x3BFF#14).progRead (ready 0x3BFF#14).pc = some 0x3BFF#14 ∧
    decode 0x3BFF#14 = .unassigned 0x3BFF#14 := by decide

theorem witness_FetchIgnoresTheUpperAddressBits :
    State.reset.params.progSize = .words1024 ∧
    ({ State.reset with params := { Config.defaultParams with progSize := .words512 } } : State).params.progSize = .words512 := by
  decide

theorem witness_EveryStepKeepsTheStoreInvariant :
    (Memory.wf (ready 0#14).gpr = true ∧ Memory.inRange (ready 0#14).params (ready 0#14).gpr = true ∧
      Program.wf (ready 0#14).prog = true ∧ Program.inRange (ready 0#14).params (ready 0#14).prog = true) ∧
    step (ready 0#14) = .next { ready 0#14 with pc := 1#13, cycles := 1 } := ⟨by decide, rfl⟩

theorem witness_CanonicalMemoriesThatReadAlikeAreEqual :
    let m : Memory := [(0x0C, 1#8), (0x4F, 2#8)]
    Memory.wf m = true ∧ ∀ k, Memory.read m k = Memory.read m k := ⟨by decide, fun _ => rfl⟩

theorem witness_ProgramMemoryIsNeitherWrittenNorRead :
    step (ready 0#14) = .next { ready 0#14 with pc := 1#13, cycles := 1 } := rfl

/-- NOP meets every clause's hypothesis at once: it writes no register, uses no stack and is none of the excepted ones. -/
theorem witness_AnInstructionChangesOnlyWhatItNames :
    exec .nop State.reset = .next { State.reset with pc := 1#13, cycles := 1 } ∧ Instr.nop.writesW = false ∧
    State.reset.written .nop = none ∧ Instr.nop.usesStack = false := ⟨rfl, by decide⟩

theorem witness_FlagsChangeOnlyAsTheTableSays :
    exec .nop State.reset = .next { State.reset with pc := 1#13, cycles := 1 } ∧ State.reset.written .nop = none ∧
    Instr.nop.listsC = false ∧ Instr.nop.listsDC = false ∧ Instr.nop.listsZ = false ∧
    leaves (exec .clrwdt State.reset) (fun _ => true) ∧ leaves (exec .sleep State.reset) (fun _ => true) ∧
    leaves (exec .clrw State.reset) (fun _ => true) ∧ leaves (exec (.clrf 0x03#7) State.reset) (fun _ => true) ∧
    leaves (exec .retfie inHandler) (fun _ => true) := ⟨rfl, by decide⟩

theorem witness_OnlyTheListedInstructionsUseW :
    exec .nop State.reset = .next { State.reset with pc := 1#13, cycles := 1 } ∧ Instr.nop.writesW = false ∧
    Instr.nop.readsW = false ∧ (Instr.movlw 0#8).readsW = false ∧ (Instr.movlw 0#8).writesW = true := ⟨rfl, by decide⟩

theorem witness_GieRisesOnlyByRetfieOrIntcon :
    inHandler.gie = false ∧ leaves (step inHandler) (fun t => t.gie) ∧
    (ready 0x178B#14).gie = false ∧ leaves (step (ready 0x178B#14)) (fun t => t.gie) := by decide

theorem witness_CycleCountsFollowTheTable :
    leaves (exec (.goto 0#11) State.reset) (fun t => t.cycles == 2) ∧
    leaves (exec (.movwf 0x02#7) State.reset) (fun t => t.cycles == 2) ∧ State.reset.written (.movwf 0x02#7) = some .pcl := by
  decide

theorem witness_EffectiveAddressFormation :
    (0x01#7 : Designator) ≠ 0#7 ∧ State.reset.fsr = 0x00#8 ∧ ({ State.reset with fsr := 0x80#8 } : State).fsr = 0x80#8 := by
  decide

/-- Every register of each clause, at an address the map gives it. -/
theorem witness_WrittenRegistersReadBack :
    let m := fileMap Config.defaultParams
    [m 0x01#8, m 0x81#8, m 0x84#8, m 0x86#8, m 0x08#8, m 0x09#8, m 0x8B#8] =
      [.tmr0, .optionReg, .fsr, .trisB, .eedata, .eeadr, .intcon] ∧
    m 0x0C#8 = .gpr 0x0C ∧ m 0xCF#8 = .gpr 0x4F ∧ [m 0x85#8, m 0x88#8, m 0x8A#8] = [.trisA, .eecon1, .pclath] ∧
    [m 0x03#8, m 0x05#8, m 0x06#8, m 0x82#8] = [.status, .portA, .portB, .pcl] ∧
    [m 0x80#8, m 0x89#8, m 0x50#8, m 0xFF#8] = [.indf, .eecon2, .unimplemented, .unimplemented] := by decide

theorem witness_StatusAsDestination :
    fileMap State.reset.params 0x83#8 = .status ∧ State.reset.fileReg 0x03#7 = .status ∧ (resultOnly 0#8).flags = {} ∧
    (resultZ 0#8).flags ≠ {} := by decide

/-- A port as destination, two latches with the same pins (all pins are inputs after reset), and both ports by designator. -/
theorem witness_PortReadModifyWriteUsesThePins :
    State.reset.written (.incf 0x05#7 .file) = some .portA ∧
    ({ State.reset with latchA := 0x1F#5 } : State).pinsA = State.reset.pinsA ∧
    State.reset.written (.decfsz 0x06#7 .file) = some .portB ∧
    ({ State.reset with latchB := 0xFF#8 } : State).pinsB = State.reset.pinsB ∧
    State.reset.fileReg 0x05#7 = .portA ∧ State.reset.fileReg 0x06#7 = .portB := by decide

/-- Every register of the map, at an address the map gives it. -/
theorem witness_FileRegisterReads :
    let m := fileMap Config.defaultParams
    [m 0x83#8, m 0x05#8, m 0x06#8, m 0x82#8, m 0x8A#8, m 0x85#8, m 0x88#8, m 0x86#8, m 0x8B#8] =
      [.status, .portA, .portB, .pcl, .pclath, .trisA, .eecon1, .trisB, .intcon] ∧
    [m 0x81#8, m 0x01#8, m 0x84#8, m 0x08#8, m 0x09#8] = [.optionReg, .tmr0, .fsr, .eedata, .eeadr] ∧
    m 0x0C#8 = .gpr 0x0C ∧ m 0xCF#8 = .gpr 0x4F ∧
    [m 0x80#8, m 0x89#8, m 0x50#8, m 0x07#8] = [.indf, .eecon2, .unimplemented, .unimplemented] := by decide

theorem witness_WritesOfTmr0ClearItsPrescaler :
    State.reset.written (.movwf 0x01#7) = some .tmr0 ∧ leaves (exec (.movwf 0x01#7) State.reset) (fun _ => true) ∧
    State.reset.optionReg.getLsbD 3 = true ∧
    let s := { State.reset with optionReg := 0x00#8 }
    s.written (.clrf 0x01#7) = some .tmr0 ∧ leaves (exec (.clrf 0x01#7) s) (fun _ => true) ∧
    s.optionReg.getLsbD 3 = false := by decide

theorem witness_NineRotatesAndTwoSwapsRestore :
    State.reset.fileReg 0x0C#7 = .gpr 0x0C ∧ ({ State.reset with fsr := 0xCF#8 } : State).fileReg 0x00#7 = .gpr 0x4F := by
  decide

theorem witness_DecfszAndIncfszDeliverAndSkip :
    State.reset.dest 0x20#7 .file ≠ some .pcl ∧ State.reset.dest 0x02#7 .w ≠ some .pcl ∧ State.reset.fileReg 0x02#7 = .pcl := by
  decide

theorem witness_ComputedJump : State.reset.fileReg 0x02#7 = .pcl := by decide

theorem witness_CallPushesAndBranches : (6 : Nat) < 7 ∧ (7 : Nat) ≠ State.reset.sp.toNat := by decide

theorem witness_ReturnsPopTheStack : inHandler.tosWritten = true := by decide

theorem witness_ReturnsStopOnAnUnwrittenSlot : State.reset.tosWritten = false := by decide

theorem witness_TheStackKeepsTheLastEightPushes :
    (7 : Nat) < 8 ∧ 7 < ([1, 2, 3, 4, 5, 6, 7, 8, 9] : List ProgAddr).length ∧ 0 < ([1] : List ProgAddr).length := by decide

theorem witness_ClrwdtAndSleepComplete :
    State.reset.pending = false ∧ State.reset.optionReg.getLsbD 3 = true ∧
    ({ State.reset with optionReg := 0x00#8 } : State).pending = false ∧
    ({ State.reset with optionReg := 0x00#8 } : State).optionReg.getLsbD 3 = false := by decide

/-- Each of the four sources, pending with GIE clear. -/
theorem witness_SleepStopsWithAnInterruptPending :
    ((withIntcon 0x12#8).intcon.getLsbD 1 = true ∧ (withIntcon 0x12#8).intcon.getLsbD 4 = true) ∧
    ((withIntcon 0x24#8).intcon.getLsbD 2 = true ∧ (withIntcon 0x24#8).intcon.getLsbD 5 = true) ∧
    ((withIntcon 0x09#8).intcon.getLsbD 0 = true ∧ (withIntcon 0x09#8).intcon.getLsbD 3 = true) ∧
    (({ withIntcon 0x40#8 with eecon1 := 0x10#5 } : State).eecon1.getLsbD 4 = true ∧
      (withIntcon 0x40#8).intcon.getLsbD 6 = true) := by decide

theorem witness_OptionAndTrisAgreeWithMovwf :
    let s := { State.reset with status := 0x38#8 }
    s.fileReg 0x01#7 = .optionReg ∧ s.fileReg 0x05#7 = .trisA ∧ s.fileReg 0x06#7 = .trisB := by decide

/-- The hypotheses of InterruptEntry on a state, but for the source. -/
def entryDue (s : State) : Bool :=
  s.moved.eventOutcome s.nextMove.event == none && !s.sleeping && !s.afterWake && s.moved.intcon.getLsbD 7

/-- Each of the four sources, raised by this boundary's own move, with GIE set; and one that was pending before. -/
theorem witness_InterruptEntry :
    (let s := { withIntcon 0x90#8 with env := [{ setIntf := true }] }
     entryDue s = true ∧ s.moved.intcon.getLsbD 1 = true ∧ s.moved.intcon.getLsbD 4 = true) ∧
    (let s := { withIntcon 0xA0#8 with env := [{ setT0if := true }] }
     entryDue s = true ∧ s.moved.intcon.getLsbD 2 = true ∧ s.moved.intcon.getLsbD 5 = true) ∧
    (let s := { withIntcon 0x88#8 with env := [{ setRbif := true }] }
     entryDue s = true ∧ s.moved.intcon.getLsbD 0 = true ∧ s.moved.intcon.getLsbD 3 = true) ∧
    (let s := { withIntcon 0xC0#8 with env := [{ eecon1 := some 0x10#5 }] }
     entryDue s = true ∧ s.moved.eecon1.getLsbD 4 = true ∧ s.moved.intcon.getLsbD 6 = true) ∧
    entryDue (withIntcon 0x92#8) = true := by decide

theorem witness_RetfieUndoesInterruptEntry : (withIntcon 0x92#8).gie = true := by decide

/-- Each of the three wake-up sources, raised by this boundary's own move; and a boundary that raises none, where Timer0's
move comes to nothing. -/
theorem witness_SleepEndsOnlyByItsWakeUpSources :
    (let s := { asleep 0x10#8 with env := [{ setIntf := true }] }
     s.moved.eventOutcome s.nextMove.event = none ∧ s.sleeping = true ∧ s.pending = false ∧ s.moved.intPending = true) ∧
    (let s := { asleep 0x08#8 with env := [{ setRbif := true }] }
     s.moved.eventOutcome s.nextMove.event = none ∧ s.sleeping = true ∧ s.pending = false ∧ s.moved.portPending = true) ∧
    (let s := { asleep 0x40#8 with env := [{ eecon1 := some 0x10#5 }] }
     s.moved.eventOutcome s.nextMove.event = none ∧ s.sleeping = true ∧ s.pending = false ∧ s.moved.eepromPending = true) ∧
    (let s := { asleep 0x20#8 with env := [{ setT0if := true }] }
     s.moved.eventOutcome s.nextMove.event = none ∧ s.sleeping = true ∧ s.moved.wakePending = false) := by decide

/-- A sleeper whose external interrupt arrives at this boundary, at each of the three steps. -/
theorem witness_InstructionAfterSleepRunsBeforeEntry :
    let s := { asleep 0x90#8 with env := [{ setIntf := true }] }
    s.moved.eventOutcome s.nextMove.event = none ∧ s.env.tail = [] ∧ s.sleeping = true ∧ s.pending = false ∧
    s.moved.wakePending = true ∧ s.gie = true ∧ s.progRead s.pc = some 0#14 ∧ decode 0#14 = .instr .nop ∧
    leaves (step s) fun t =>
      t.moved.eventOutcome t.nextMove.event == none && leaves (step t) fun u =>
        !u.sleeping && u.moved.eventOutcome u.nextMove.event == none && u.moved.request && leaves (step u) fun v =>
          v.pc == 0x0004#13 && v.tos == 0x0001#13 := by decide

theorem witness_EveryStepKeepsTheSleepInvariant :
    SleepInv (ready 0x0063#14) ∧ leaves (step (ready 0x0063#14)) (fun t => t.sleeping) := ⟨fun _ => rfl, by decide⟩

theorem witness_WatchdogTimeOut :
    let s := { State.reset with env := [{ setRbif := true, event := some (.watchdog true) }] }
    let e := { s with params := { Config.defaultParams with wdtEnabled := true } }
    s.nextMove.event = some (.watchdog true) ∧ s.params.wdtEnabled = false ∧ e.params.wdtEnabled = true ∧
    e.sleeping = false ∧ ({ e with sleeping := true } : State).sleeping = true := by decide

theorem witness_MclrReset :
    let s := { State.reset with env := [{ tmr0 := some 7#8, event := some (.mclr true) }] }
    s.nextMove.event = some (.mclr true) ∧ s.sleeping = false ∧ ({ s with sleeping := true } : State).sleeping = true := by
  decide

/-- A power-on that fills a register twice, lists one beyond the implemented range, and supplies the stack's raw bits. -/
theorem witness_PowerOnReset :
    let x : PowerOnCells :=
      { w := 0xA5#8, c := true, gpr := [(0x4F, 1#8), (0x4F, 2#8), (0x50, 3#8)]
        stack := Vector.replicate 8 0x1FFF#13 }
    let s := { State.reset with env := [{ event := some (.powerOn x) }] }
    s.nextMove.event = some (.powerOn x) ∧ 0x0C ≤ 0x4F ∧ 0x4F ≤ s.params.gprLast ∧
    leaves (step s) (fun t => Memory.read t.gpr 0x4F == 2#8 && Memory.read t.gpr 0x50 == 0#8 && t.w == 0xA5#8 &&
      t.stack == x.stack && t.stackWritten == 0#8) := by decide

theorem witness_EnvironmentMovesAreBounded :
    State.reset.sleeping = false ∧ (asleep 0x12#8).sleeping = true ∧ (asleep 0x12#8).intcon.getLsbD 1 = true := by decide

end Sys2Proof.Tests
end

/-! The rules about the shared operations that the statements on the architectural state need: the return stack, the
program memory's index, a reset event at the boundary, and the registers after power-on. -/

namespace Sys2Proof.Machine

/-! ## Words -/

/-- The value of `add8` (rule R139): the sum modulo 256. -/
theorem add8_value_toNat (a b : Byte) : (add8 a b).value.toNat = (a.toNat + b.toNat) % 256 := by
  simp [add8, sum9]

/-- The low byte of an address (rule R29). -/
theorem lowByte_toNat (a : ProgAddr) : (lowByte a).toNat = a.toNat % 256 := by
  simp [lowByte]

/-! ## Program memory -/

/-- With 1024 words the low ten bits of the address select the word (rules R26, R73). -/
theorem State.progRead_words1024 {s : State} {a : ProgAddr} (h : s.params.progSize = .words1024) :
    s.progRead a = Program.read s.prog (a.extractLsb' 0 10).toNat := by
  simp [State.progRead, progIndex, Config.DeviceParams.progWords, h]

/-- With 512 words the low nine bits of the address select the word (rules R26, R73). -/
theorem State.progRead_words512 {s : State} {a : ProgAddr} (h : s.params.progSize = .words512) :
    s.progRead a = Program.read s.prog (a.extractLsb' 0 9).toNat := by
  simp [State.progRead, progIndex, Config.DeviceParams.progWords, h]

/-! ## The return stack -/

/-- Entry 0 below the top is the top: the address just pushed (rule R31). -/
theorem State.push_stackEntry_zero (s : State) (v : ProgAddr) : (s.push v).stackEntry 0 = v := by
  simp [State.stackEntry]

/-- A push moves every older entry one place down (rule R31); the eighth is lost. -/
theorem State.push_stackEntry_succ (s : State) (v : ProgAddr) {k : Nat} (hk : k < 7) :
    (s.push v).stackEntry (k + 1) = s.stackEntry k := by
  have hslot : (s.push v).sp - 1#3 - BitVec.ofNat 3 (k + 1) = s.sp - 1#3 - BitVec.ofNat 3 k := by
    simp only [State.push_sp, BitVec.ofNat_add]
    bv_omega
  have hne : s.sp.toNat ≠ (s.sp - 1#3 - BitVec.ofNat 3 k).toNat := by bv_omega
  simp only [State.stackEntry, State.push_stack, hslot]
  exact Vector.getElem_set_ne _ _ hne

/-- After any pushes, entry `k < 8` is the `k`-th pushed address counted from the last (rules R30, R31). -/
theorem State.stackEntry_foldl_push (s : State) (vs : List ProgAddr) :
    ∀ (k : Nat), k < 8 → (h : k < vs.length) →
      (vs.foldl State.push s).stackEntry k = vs.reverse[k]'(by simpa using h) := by
  induction vs using List.reverseRecOn with
  | nil => intro k _ h; exact absurd h (Nat.not_lt_zero k)
  | append_singleton vs v ih =>
    intro k hk h
    simp only [List.foldl_append, List.foldl_cons, List.foldl_nil, List.reverse_append, List.reverse_singleton,
      List.singleton_append]
    cases k with
    | zero => simpa using State.push_stackEntry_zero _ v
    | succ k =>
      rw [State.push_stackEntry_succ _ v (by omega)]
      simpa using ih k (by omega) (by simpa using h)

/-! ## Resets -/

/-- A reset or an effective time-out is the whole step (rule R198). -/
theorem step_of_event {s u : State} (h : s.moved.eventOutcome s.nextMove.event = some u) : step s = .next u := by
  unfold step State.cycle
  simp only [State.boundary_eq, h]

/-- INTCON after a reset: bit 0 is RBIF, the others are clear (rule R50). -/
theorem getLsbD_resetIntcon (rbif : Bool) (i : Nat) :
    (resetIntcon rbif).getLsbD i = if i = 0 then rbif else false := by
  cases i with
  | zero => cases rbif <;> rfl
  | succ i => exact (BitVec.getLsbD_append (x := 0#7) (y := BitVec.ofBool rbif)).trans (by simp)

/-- EECON1 after a reset, with its one variable bit `q` (rule R50). -/
theorem resetEecon1_eq (q : Bool) : resetEecon1 q = if q then 0b01000#5 else 0b00000#5 := by
  cases q <;> rfl

/-- The fields of STATUS after a reset (rule R50): bits 7:5 clear, TO, PD, and the given bits 2:0. -/
theorem resetStatus_fields (timeOut powerDown : Bool) (zdcc : BitVec 3) :
    (resetStatus timeOut powerDown zdcc).extractLsb' 5 3 = 0#3 ∧
    (resetStatus timeOut powerDown zdcc).getLsbD 4 = timeOut ∧
    (resetStatus timeOut powerDown zdcc).getLsbD 3 = powerDown ∧
    (resetStatus timeOut powerDown zdcc).extractLsb' 0 3 = zdcc := by
  revert timeOut powerDown zdcc; decide

/-- The fields of STATUS after power-on (rule R50): bits 7:3 are fixed, Z, DC and C are the given ones. -/
theorem powerOnStatus_fields (z dc c : Bool) :
    (resetStatus true true (BitVec.ofBool z ++ BitVec.ofBool dc ++ BitVec.ofBool c)).extractLsb' 3 5 = 0b00011#5 ∧
    (resetStatus true true (BitVec.ofBool z ++ BitVec.ofBool dc ++ BitVec.ofBool c)).getLsbD 2 = z ∧
    (resetStatus true true (BitVec.ofBool z ++ BitVec.ofBool dc ++ BitVec.ofBool c)).getLsbD 1 = dc ∧
    (resetStatus true true (BitVec.ofBool z ++ BitVec.ofBool dc ++ BitVec.ofBool c)).getLsbD 0 = c := by
  revert z dc c; decide

/-- Nothing may be popped from an empty stack (rules R32, R50). -/
theorem State.tosWritten_of_stackWritten_zero {s : State} (h : s.stackWritten = 0#8) : s.tosWritten = false := by
  simp [State.tosWritten, h]

/-- The registers after power-on (rule R50): an implemented one holds the last byte listed for it, 0x00 if none is. -/
theorem powerOnGpr_read (p : Config.DeviceParams) (cells : List Host.Cell) {n : Nat}
    (hlo : Config.gprFirst ≤ n) (hhi : n ≤ p.gprLast) :
    Memory.read (powerOnGpr p cells) n = ((cells.reverse.find? fun c => c.1 = n).map (·.2)).getD 0x00#8 := by
  unfold powerOnGpr
  induction cells using List.reverseRecOn with
  | nil => rfl
  | append_singleton cells c ih =>
    simp only [List.foldl_append, List.foldl_cons, List.foldl_nil, List.reverse_append, List.reverse_singleton,
      List.singleton_append, List.find?_cons]
    by_cases hc : c.1 = n
    · simp [hc, hlo, hhi, Memory.read_write]
    · have hn : n ≠ c.1 := fun h => hc h.symm
      simp only [hc, decide_false]
      split
      · rw [Memory.read_write, if_neg hn, ih]
      · exact ih

end Sys2Proof.Machine

/-! What an instruction that completes does, said once: the inversion of `exec`. -/

namespace Sys2Proof.Machine

/-! ## A skip -/

@[simp] theorem State.skipIf_w (s : State) (c : Bool) : (s.skipIf c).w = s.w := by cases c <;> rfl
@[simp] theorem State.skipIf_status (s : State) (c : Bool) : (s.skipIf c).status = s.status := by cases c <;> rfl
@[simp] theorem State.skipIf_intcon (s : State) (c : Bool) : (s.skipIf c).intcon = s.intcon := by cases c <;> rfl
@[simp] theorem State.skipIf_flagC (s : State) (c : Bool) : (s.skipIf c).flagC = s.flagC := by simp [State.flagC]
@[simp] theorem State.skipIf_flagDC (s : State) (c : Bool) : (s.skipIf c).flagDC = s.flagDC := by simp [State.flagDC]
@[simp] theorem State.skipIf_flagZ (s : State) (c : Bool) : (s.skipIf c).flagZ = s.flagZ := by simp [State.flagZ]
@[simp] theorem State.skipIf_flagPD (s : State) (c : Bool) : (s.skipIf c).flagPD = s.flagPD := by simp [State.flagPD]
@[simp] theorem State.skipIf_flagTO (s : State) (c : Bool) : (s.skipIf c).flagTO = s.flagTO := by simp [State.flagTO]

/-! ## The inversion of `exec` -/

/-- The flags `u` are those that instruction `i` lists under "Status Affected" (rule R39's table). -/
structure FlagUpdate.ListedBy (u : FlagUpdate) (i : Instr) : Prop where
  c : u.c.isSome = i.listsC
  dc : u.dc.isSome = i.listsDC
  z : u.z.isSome = i.listsZ

/-- Every way an instruction `i` can lead from `s` to a next state. -/
inductive ExecCase : Instr → State → State → Prop where
  /-- A result is delivered to W or to the file register the instruction writes (rule R120), and the next instruction
  may be skipped (rules R127, R129). -/
  | result {i : Instr} {s u : State} {v : Byte} {fl : FlagUpdate} (c : Bool) (hd : Delivers s u (s.written i) v fl)
      (hw : i.writesW = false → s.written i ≠ none) (hf : fl.ListedBy i)
      (hi : i ≠ .clrwdt ∧ i ≠ .sleep ∧ i ≠ .retfie) : ExecCase i s (u.skipIf c)
  | nop {s : State} : ExecCase .nop s s.advance
  | btfsc {s : State} {f : Designator} {b : BitIndex} (c : Bool) : ExecCase (.btfsc f b) s (s.advance.skipIf c)
  | btfss {s : State} {f : Designator} {b : BitIndex} (c : Bool) : ExecCase (.btfss f b) s (s.advance.skipIf c)
  | call {s : State} {k : BitVec 11} :
      ExecCase (.call k) s ((s.advance.push (s.pc + 1#13)).jump (s.pageTarget k))
  | goto {s : State} {k : BitVec 11} : ExecCase (.goto k) s (s.advance.jump (s.pageTarget k))
  | ret {s : State} (hw : s.tosWritten = true) : ExecCase .ret s (s.advance.dropTop.jump s.tos)
  | retlw {s : State} {k : Byte} (hw : s.tosWritten = true) :
      ExecCase (.retlw k) s ((s.setW k).advance.dropTop.jump s.tos)
  | retfie {s : State} (hw : s.tosWritten = true) : ExecCase .retfie s ((s.setGie true).advance.dropTop.jump s.tos)
  | clrwdt {s : State} : ExecCase .clrwdt s (s.advance.clearWatchdog.setTOPD true true)
  | sleep {s : State} (hp : s.pending = false) :
      ExecCase .sleep s (s.advance.clearWatchdog.setTOPD true false).fallAsleep
  | option {s : State} : ExecCase .option s (s.advance.setOption s.w)
  | trisA {s : State} {f : BitVec 3} (hf : f = 5#3) : ExecCase (.tris f) s (s.advance.setTrisA s.w)
  | trisB {s : State} {f : BitVec 3} (hf : f = 6#3) : ExecCase (.tris f) s (s.advance.setTrisB s.w)

section
variable {i : Instr} {s t : State} {f : Designator} {d : Dest}

/-- An instruction that is a byte-oriented operation delivers its result (rule R120). -/
theorem ExecCase.of_byteOp {op : Byte → AluResult} (h : Host.Outcome.next (s.byteOp f d op) = (.next t : Result))
    (hd : s.written i = s.dest f d) (hw : i.writesW = decide (d = .w)) (hf : ∀ v, (op v).flags.ListedBy i)
    (hi : i ≠ .clrwdt ∧ i ≠ .sleep ∧ i ≠ .retfie) : ExecCase i s t := by
  cases h
  refine .result false (hd ▸ s.byteOp_delivers f d op) (fun hfalse => ?_) (hf _) hi
  cases d
  · simp [hw] at hfalse
  · simp [hd, State.dest]

/-- A literal operation delivers its result to W. -/
theorem ExecCase.of_literalOp {r : AluResult} (h : Host.Outcome.next (s.literalOp r) = (.next t : Result))
    (hd : s.written i = none) (hw : i.writesW = true) (hf : r.flags.ListedBy i)
    (hi : i ≠ .clrwdt ∧ i ≠ .sleep ∧ i ≠ .retfie) : ExecCase i s t := by
  cases h
  exact .result false (hd ▸ s.literalOp_delivers r) (by simp [hw]) hf hi

/-- DECFSZ and INCFSZ deliver their result without a flag, and skip when it is 0 (rules R127, R129). -/
theorem ExecCase.of_stepAndSkip {r : Byte} (h : s.stepAndSkip f d r = .next t)
    (hd : s.written i = s.dest f d) (hw : i.writesW = decide (d = .w)) (hf : ({} : FlagUpdate).ListedBy i)
    (hi : i ≠ .clrwdt ∧ i ≠ .sleep ∧ i ≠ .retfie) : ExecCase i s t := by
  obtain ⟨-, rfl⟩ := (s.stepAndSkip_eq_next t f d r).1 h
  refine .result (r == 0#8) (hd ▸ s.byteOp_delivers f d fun _ => resultOnly r) (fun hfalse => ?_) hf hi
  cases d
  · simp [hw] at hfalse
  · simp [hd, State.dest]

end

/-- The inversion of an instruction that completes. -/
theorem exec_cases {i : Instr} {s t : State} (h : exec i s = .next t) : ExecCase i s t := by
  cases i with
  | addwf f d | andwf f d | comf f d | decf f d | incf f d | iorwf f d | movf f d | rlf f d | rrf f d | subwf f d
  | swapf f d | xorwf f d =>
    exact .of_byteOp h (by cases d <;> rfl) rfl (fun _ => ⟨rfl, rfl, rfl⟩) (by simp)
  | clrf f | movwf f | bcf f b | bsf f b =>
    exact .of_byteOp (d := .file) h rfl rfl (fun _ => ⟨rfl, rfl, rfl⟩) (by simp)
  | decfsz f d | incfsz f d => exact .of_stepAndSkip h (by cases d <;> rfl) rfl ⟨rfl, rfl, rfl⟩ (by simp)
  | clrw | addlw k | andlw k | iorlw k | movlw k | sublw k | xorlw k =>
    exact .of_literalOp h rfl rfl ⟨rfl, rfl, rfl⟩ (by simp)
  | nop => cases h; exact .nop
  | btfsc f b => cases h; exact .btfsc _
  | btfss f b => cases h; exact .btfss _
  | call k => cases h; exact .call
  | goto k => cases h; exact .goto
  | ret => obtain ⟨hw, rfl⟩ := (State.popToPc_eq_next ..).1 h; exact .ret hw
  | retlw k => obtain ⟨hw, rfl⟩ := (State.popToPc_eq_next ..).1 h; exact .retlw hw
  | retfie => obtain ⟨hw, rfl⟩ := (State.popToPc_eq_next ..).1 h; exact .retfie hw
  | clrwdt => cases h; exact .clrwdt
  | sleep =>
    change (if s.pending then _ else _) = _ at h
    split at h
    · cases h
    · rename_i hp
      cases h
      exact .sleep (by simpa using hp)
  | option => cases h; exact .option
  | tris f =>
    change execTris f s = _ at h
    unfold execTris at h
    split at h
    · rename_i hf; cases h; exact .trisA (BitVec.eq_of_toNat_eq hf)
    · rename_i hf; cases h; exact .trisB (BitVec.eq_of_toNat_eq hf)
    · cases h

end Sys2Proof.Machine

/-! W, the flags and GIE after an instruction, and the interrupt enable along a step. -/

namespace Sys2Proof.Machine

/-- A flag that the instruction does not list, and that is not written as data, stays (rule R39). -/
theorem flagAfter_of_not_listed {listed : Option Bool} {asData b old : Bool} (h : listed.isSome = false)
    (hd : asData = false) : flagAfter listed asData b old = old := by
  cases listed with
  | none => simp [flagAfter, hd]
  | some b => cases h

/-- C, DC and Z stay when the instruction does not list them and STATUS is not its destination (rule R39). -/
theorem exec_keeps_unlisted_flags {i : Instr} {s t : State} (h : exec i s = .next t) (hs : s.written i ≠ some .status) :
    (i.listsC = false → t.flagC = s.flagC) ∧ (i.listsDC = false → t.flagDC = s.flagDC) ∧
      (i.listsZ = false → t.flagZ = s.flagZ) := by
  cases exec_cases h with
  | result c hd _ hf =>
    simp only [State.skipIf_flagC, State.skipIf_flagDC, State.skipIf_flagZ, hd.flagC, hd.flagDC, hd.flagZ]
    exact ⟨fun hl => flagAfter_of_not_listed (hf.c.trans hl) (by simp [hs]),
      fun hl => flagAfter_of_not_listed (hf.dc.trans hl) (by simp [hs]),
      fun hl => flagAfter_of_not_listed (hf.z.trans hl) (by simp [hs])⟩
  | nop | btfsc | btfss | call | goto | ret | retlw | retfie | clrwdt | sleep | option | trisA | trisB => simp

/-- TO and PD stay for every instruction but CLRWDT and SLEEP (rules R37, R38). -/
theorem exec_keeps_TO_PD {i : Instr} {s t : State} (h : exec i s = .next t) (hc : i ≠ .clrwdt) (hs : i ≠ .sleep) :
    t.flagTO = s.flagTO ∧ t.flagPD = s.flagPD := by
  cases exec_cases h with
  | result c hd => simp [hd.flagTO, hd.flagPD]
  | clrwdt => exact absurd rfl hc
  | sleep => exact absurd rfl hs
  | nop | btfsc | btfss | call | goto | ret | retlw | retfie | option | trisA | trisB => simp

/-- GIE stays for every instruction but RETFIE and those that write INTCON (rule R40). -/
theorem exec_keeps_gie {i : Instr} {s t : State} (h : exec i s = .next t) (hr : i ≠ .retfie)
    (hw : s.written i ≠ some .intcon) : t.gie = s.gie := by
  cases exec_cases h with
  | result c hd => simp [State.gie, hd.intcon, hw]
  | retfie => exact absurd rfl hr
  | nop | btfsc | btfss | call | goto | ret | retlw | clrwdt | sleep | option | trisA | trisB => simp [State.gie]

/-- W stays for every instruction outside rule R20's list. -/
theorem exec_keeps_w {i : Instr} {s t : State} (h : exec i s = .next t) (hw : i.writesW = false) : t.w = s.w := by
  cases exec_cases h with
  | result c hd hW => simp [hd.w, hW hw]
  | retlw => cases hw
  | nop | btfsc | btfss | call | goto | ret | retfie | clrwdt | sleep | option | trisA | trisB => simp

/-- RETFIE sets GIE (rules R40, R167). -/
theorem exec_retfie_gie {s t : State} (h : exec .retfie s = .next t) : t.gie = true := by
  cases exec_cases h with
  | result _ _ _ _ hi => exact absurd rfl hi.2.2
  | retfie => simp [State.gie]

/-- CLRWDT sets TO and PD (rules R37, R38, R163). -/
theorem exec_clrwdt_TO_PD {s t : State} (h : exec .clrwdt s = .next t) : t.flagTO = true ∧ t.flagPD = true := by
  cases exec_cases h with
  | result _ _ _ _ hi => exact absurd rfl hi.1
  | clrwdt => simp

/-- SLEEP sets TO and clears PD (rules R37, R38, R170). -/
theorem exec_sleep_TO_PD {s t : State} (h : exec .sleep s = .next t) : t.flagTO = true ∧ t.flagPD = false := by
  cases exec_cases h with
  | result _ _ _ _ hi => exact absurd rfl hi.2.1
  | sleep => simp

/-- CLRW and CLRF set Z, whatever register CLRF names (rules R34, R46). -/
theorem exec_clear_sets_Z {i : Instr} {s t : State} (h : exec i s = .next t) (hi : i = .clrw ∨ ∃ f, i = .clrf f) :
    t.flagZ = true := by
  obtain rfl | ⟨f, rfl⟩ := hi
  · cases h; exact (s.literalOp_delivers (resultZ 0x00#8)).flagZ
  · cases h; exact (s.byteOp_delivers f .file fun _ => resultZ 0x00#8).flagZ

/-! ## GIE at the boundary -/

/-- No move of the environment reaches GIE (rule R68). -/
theorem State.moved_gie (s : State) : s.moved.gie = s.gie := by
  have hraised : ∀ t0if intf rbif : Bool,
      (0#5 ++ BitVec.ofBool t0if ++ BitVec.ofBool intf ++ BitVec.ofBool rbif).getLsbD 7 = false := by decide
  simp only [State.gie, State.moved_intcon, State.flagsRaised, BitVec.getLsbD_or]
  rw [hraised, Bool.or_false]

/-- A reset or time-out never sets GIE: a reset clears it, a watchdog wake-up leaves it (rules R50, R206). -/
theorem State.eventOutcome_gie {s t : State} {e : Option LineEvent} (h : s.eventOutcome e = some t)
    (hs : s.gie = false) : t.gie = false := by
  cases e with
  | none => cases h
  | some e =>
    cases e with
    | powerOn x => cases h; exact getLsbD_resetIntcon _ 7
    | mclr q => cases h; exact getLsbD_resetIntcon _ 7
    | watchdog q =>
      simp only [State.eventOutcome, Option.ite_none_right_eq_some, Option.some.injEq] at h
      obtain ⟨-, rfl⟩ := h
      split
      · exact hs
      · exact getLsbD_resetIntcon _ 7

/-- Interrupt entry clears GIE (rule R196). -/
theorem State.takeInterrupt_gie (s : State) : s.takeInterrupt.gie = false := by
  simp [State.gie]

/-- A step that sets GIE executes RETFIE or an instruction that writes INTCON (rules R40, R209): resets, wake-ups and
interrupt entry never set it. -/
theorem step_gie_rises {s t : State} (h : step s = .next t) (hs : s.gie = false) (ht : t.gie = true) :
    ∃ w i, s.progRead s.pc = some w ∧ decode w = .instr i ∧ (i = .retfie ∨ s.moved.written i = some .intcon) := by
  have hm : s.moved.gie = false := s.moved_gie.trans hs
  have stays : t.gie ≠ false := by simp [ht]
  cases step_cases h with
  | event he => exact absurd (State.eventOutcome_gie he hm) stays
  | asleep _ _ _ he => exact absurd (he ▸ hm) stays
  | wake _ _ _ he => subst he; exact absurd hm stays
  | entry _ _ _ _ he => exact absurd (he ▸ State.takeInterrupt_gie _) stays
  | instr i w _ _ _ hw hd he =>
    refine ⟨w, i, hw, hd, ?_⟩
    by_contra hno
    obtain ⟨hr, hi⟩ := not_or.1 hno
    have hkeep : t.gie = s.moved.endWake.gie := exec_keeps_gie he hr hi
    exact stays (hkeep.trans hm)

end Sys2Proof.Machine

/-! What an instruction does not depend on: W, for those that rule R20 does not list as reading it; the counts of the
watchdog, the prescaler and the cycles, for every one (rules R41, R230). -/

namespace Sys2Proof.Machine

/-! ## W -/

/-- A write of a file register neither reads nor writes W. -/
theorem State.memWrite_setW (s : State) (v : Byte) (aff : Bool) (a x : Byte) :
    (s.setW v).memWrite aff a x = (s.memWrite aff a x).setW v := by
  unfold State.memWrite
  rw [State.setW_params]
  split <;> rfl

/-- A delivered result covers W when W is the destination, and leaves it otherwise. -/
theorem State.deliver_setW (s : State) (v : Byte) (d : Dest) (a : Byte) (r : AluResult) :
    (s.setW v).deliver d a r = if decide (d = .w) then s.deliver d a r else (s.deliver d a r).setW v := by
  cases d with
  | w => rfl
  | file => exact congrArg (State.setFlags · r.flags) (s.advance.memWrite_setW v r.flags.affectsAny a r.value)

/-- DECFSZ and INCFSZ: the destination is formed and the skip decided without W. -/
theorem State.stepAndSkip_setW (s : State) (v : Byte) (f : Designator) (d : Dest) (r : Byte) :
    (s.setW v).stepAndSkip f d r =
      mapNext (fun t => if decide (d = .w) then t else t.setW v) (s.stepAndSkip f d r) := by
  have hdeliver := s.deliver_setW v d (s.ea f) (resultOnly r)
  have hea : (s.setW v).ea f = s.ea f := rfl
  have hreg : (s.setW v).fileReg f = s.fileReg f := rfl
  unfold State.stepAndSkip
  rw [hea, hreg, hdeliver]
  split
  · rfl
  · cases d <;> cases r == 0#8 <;> rfl

theorem State.skipIf_setW (s : State) (v : Byte) (c : Bool) : (s.setW v).skipIf c = (s.skipIf c).setW v := by
  cases c <;> rfl

theorem State.popToPc_setW (s : State) (v : Byte) : (s.setW v).popToPc = mapNext (fun t => t.setW v) s.popToPc := by
  have htos : (s.setW v).tosWritten = s.tosWritten := rfl
  unfold State.popToPc
  rw [htos]
  split <;> rfl

theorem mapNext_id (r : Result) : mapNext (fun t => t) r = r := by
  cases r <;> rfl

/-- An instruction that does not read W has the same effect whatever W holds (rule R20). -/
theorem exec_setW {i : Instr} (hr : i.readsW = false) (s : State) (v : Byte) :
    exec i (s.setW v) = mapNext (fun t => if i.writesW then t else t.setW v) (exec i s) := by
  cases i with
  | addwf | andwf | iorwf | subwf | xorwf | movwf | addlw | andlw | iorlw | sublw | xorlw | option | tris => cases hr
  | comf f d | decf f d | incf f d | movf f d | rlf f d | rrf f d | swapf f d =>
    exact congrArg Host.Outcome.next (s.deliver_setW v d _ _)
  | clrf f | bcf f b | bsf f b => exact congrArg Host.Outcome.next (s.deliver_setW v .file _ _)
  | decfsz f d | incfsz f d => exact s.stepAndSkip_setW v f d _
  | btfsc f b | btfss f b => exact congrArg Host.Outcome.next (s.advance.skipIf_setW v _)
  | ret => exact s.popToPc_setW v
  | retfie => exact (s.setGie true).popToPc_setW v
  | retlw k => exact (mapNext_id (s.setW k).popToPc).symm
  | sleep =>
    have hpending : (s.setW v).pending = s.pending := rfl
    change execSleep (s.setW v) = mapNext _ (execSleep s)
    unfold execSleep
    rw [hpending]
    split <;> rfl
  | clrw | nop | call | clrwdt | goto | movlw => rfl

/-! ## The counts -/

/-- The state with the given counts of the watchdog, the prescaler and the cycles. -/
def State.withCounts (s : State) (wdt psc : Byte) (c : Nat) : State := { s with wdt := wdt, psc := psc, cycles := c }

/-- The state with its three counts forgotten. -/
def State.forgetCounts (s : State) : State := s.withCounts 0#8 0#8 0

theorem State.skipIf_forgetCounts (s : State) (b : Bool) :
    (s.skipIf b).forgetCounts = (s.forgetCounts.skipIf b).forgetCounts := by
  cases b <;> rfl

section
variable (s : State) (wdt psc : Byte) (c : Nat)

/-- A write of a file register depends on no count; with TMR0 as the register it clears the prescaler's. -/
theorem State.memWrite_withCounts (aff : Bool) (a x : Byte) :
    ((s.withCounts wdt psc c).memWrite aff a x).forgetCounts = (s.memWrite aff a x).forgetCounts := by
  have hp : (s.withCounts wdt psc c).params = s.params := rfl
  unfold State.memWrite
  rw [hp]
  split <;> rfl

theorem State.deliver_withCounts (d : Dest) (a : Byte) (r : AluResult) :
    ((s.withCounts wdt psc c).deliver d a r).forgetCounts = (s.deliver d a r).forgetCounts := by
  cases d with
  | w => rfl
  | file =>
    exact congrArg (State.setFlags · r.flags)
      (s.advance.memWrite_withCounts wdt psc (c + 1) r.flags.affectsAny a r.value)

theorem State.stepAndSkip_withCounts (f : Designator) (d : Dest) (r : Byte) :
    mapNext State.forgetCounts ((s.withCounts wdt psc c).stepAndSkip f d r) =
      mapNext State.forgetCounts (s.stepAndSkip f d r) := by
  have hreg : (s.withCounts wdt psc c).fileReg f = s.fileReg f := rfl
  have hea : (s.withCounts wdt psc c).ea f = s.ea f := rfl
  unfold State.stepAndSkip
  rw [hreg, hea]
  split
  · rfl
  · refine congrArg Host.Outcome.next ?_
    rw [State.skipIf_forgetCounts, s.deliver_withCounts, ← State.skipIf_forgetCounts]

theorem State.popToPc_withCounts :
    mapNext State.forgetCounts (s.withCounts wdt psc c).popToPc = mapNext State.forgetCounts s.popToPc := by
  have htos : (s.withCounts wdt psc c).tosWritten = s.tosWritten := rfl
  unfold State.popToPc
  rw [htos]
  split <;> rfl

/-- The advance of the program counter, then a skip or none. -/
theorem State.advance_skipIf_withCounts (b : Bool) :
    ((s.withCounts wdt psc c).advance.skipIf b).forgetCounts = (s.advance.skipIf b).forgetCounts := by
  cases b <;> rfl

/-- Every instruction gives the same up to the three counts, whatever they hold (rules R41, R230). -/
theorem exec_withCounts (i : Instr) :
    mapNext State.forgetCounts (exec i (s.withCounts wdt psc c)) = mapNext State.forgetCounts (exec i s) := by
  cases i with
  | addwf f d | andwf f d | comf f d | decf f d | incf f d | iorwf f d | movf f d | rlf f d | rrf f d | subwf f d
  | swapf f d | xorwf f d => exact congrArg Host.Outcome.next (s.deliver_withCounts wdt psc c d _ _)
  | clrf f | movwf f | bcf f b | bsf f b => exact congrArg Host.Outcome.next (s.deliver_withCounts wdt psc c .file _ _)
  | decfsz f d | incfsz f d => exact s.stepAndSkip_withCounts wdt psc c f d _
  | btfsc f b | btfss f b => exact congrArg Host.Outcome.next (s.advance_skipIf_withCounts wdt psc c _)
  | ret => exact s.popToPc_withCounts wdt psc c
  | retlw k => exact (s.setW k).popToPc_withCounts wdt psc c
  | retfie => exact (s.setGie true).popToPc_withCounts wdt psc c
  | sleep =>
    have hpending : (s.withCounts wdt psc c).pending = s.pending := rfl
    change mapNext _ (execSleep _) = mapNext _ (execSleep s)
    unfold execSleep
    rw [hpending]
    split <;> rfl
  | tris f =>
    change mapNext _ (execTris f _) = mapNext _ (execTris f s)
    unfold execTris
    split <;> rfl
  | clrw | nop | addlw | andlw | call | clrwdt | goto | iorlw | movlw | sublw | xorlw | option => rfl

end

end Sys2Proof.Machine

/-! STATUS as an explicit destination (rule R46) and the computed jump (rules R29, R121). -/

namespace Sys2Proof.Machine

/-! ## STATUS as a destination -/

/-- STATUS after a result is delivered to STATUS itself: the byte as rule R46 lets it in, then the listed flags. -/
theorem State.deliver_file_status {s : State} {a : Byte} (ha : fileMap s.params a = .status) (r : AluResult) :
    (s.deliver .file a r).status =
      updateBit (updateBit (updateBit (statusWritten r.flags.affectsAny s.status r.value) 0 r.flags.c) 1 r.flags.dc)
        2 r.flags.z := by
  simp [State.deliver, State.memWrite_status, ha]

/-- Without a listed flag the byte's bits 2:0 go to STATUS too. -/
theorem State.deliver_file_status_low {s : State} {a : Byte} (ha : fileMap s.params a = .status) {r : AluResult}
    (hr : r.flags = {}) {i : Nat} (hi : i < 3) : (s.deliver .file a r).status.getLsbD i = r.value.getLsbD i := by
  rw [State.deliver_file_status ha, hr]
  simp [updateBit, FlagUpdate.affectsAny, hi]

/-- The byte's bits 7:5 go to STATUS, whatever flags are listed. -/
theorem State.deliver_file_status_hi {s : State} {a : Byte} (ha : fileMap s.params a = .status) (r : AluResult)
    {i : Nat} (h5 : 5 ≤ i) (h8 : i < 8) : (s.deliver .file a r).status.getLsbD i = r.value.getLsbD i := by
  have hne : i ≠ 0 ∧ i ≠ 1 ∧ i ≠ 2 := by omega
  rw [State.deliver_file_status ha]
  simp [hne, h5, h8]

/-- With a listed flag the listed flags take their values and the others stay. -/
theorem State.deliver_file_flags {s : State} {a : Byte} {r : AluResult} (hr : r.flags ≠ {}) :
    (s.deliver .file a r).flagC = r.flags.c.getD s.flagC ∧ (s.deliver .file a r).flagDC = r.flags.dc.getD s.flagDC ∧
      (s.deliver .file a r).flagZ = r.flags.z.getD s.flagZ := by
  have hd := s.deliver_file a r
  simp [hd.flagC, hd.flagDC, hd.flagZ, flagAfter_eq, hr]

/-- The example of rule R46: CLRF on STATUS clears bits 7:5, sets Z, and leaves the rest. -/
theorem exec_clrf_status {s : State} {f : Designator} (hf : s.fileReg f = .status) :
    ∃ t, exec (.clrf f) s = .next t ∧ t.status = (s.status &&& 0b00011111#8) ||| 0b00000100#8 := by
  refine ⟨_, rfl, (State.deliver_file_status hf _).trans ?_⟩
  simp [resultZ, updateBit, withBit, statusWritten, mergeBits, FlagUpdate.affectsAny]

/-- The example of rule R46: MOVWF on STATUS writes all but TO and PD. -/
theorem exec_movwf_status {s : State} {f : Designator} (hf : s.fileReg f = .status) :
    ∃ t, exec (.movwf f) s = .next t ∧ t.status = (s.w &&& 0b11100111#8) ||| (s.status &&& 0b00011000#8) := by
  refine ⟨_, rfl, (State.deliver_file_status hf _).trans ?_⟩
  simp [resultOnly, updateBit, statusWritten, mergeBits, FlagUpdate.affectsAny]

/-! ## The computed jump -/

/-- A read of PCL: the low byte of the next instruction's address (rule R29). -/
theorem State.memRead_pcl {s : State} {a : Byte} (ha : fileMap s.params a = .pcl) :
    s.memRead a = lowByte (s.pc + 1#13) := by
  simp [State.memRead, ha]

/-- `ADDWF PCL, 1` jumps by W within the 256-word block that PCLATH names (rules R29, R121). -/
theorem exec_addwf_pcl {s : State} {f : Designator} (hf : s.fileReg f = .pcl) :
    ∃ t, exec (.addwf f .file) s = .next t ∧
      t.pc.toNat = s.pclath.toNat * 256 + ((s.pc.toNat + 1) % 256 + s.w.toNat) % 256 ∧
      t.w = s.w ∧ t.pclath = s.pclath ∧ t.cycles = s.cycles + 2 := by
  have hd := s.byteOp_delivers f .file fun v => add8 s.w v
  have ht : s.dest f .file = some .pcl := congrArg some hf
  rw [ht, State.memRead_pcl hf] at hd
  have hsum : (add8 s.w (lowByte (s.pc + 1#13))).value.toNat = ((s.pc.toNat + 1) % 256 + s.w.toNat) % 256 := by
    rw [add8_value_toNat, lowByte_toNat, BitVec.toNat_add]
    simp
    omega
  refine ⟨_, rfl, ?_, by simpa using hd.w, by simpa using hd.pclath, by simpa using hd.cycles⟩
  have hlow : ((s.pc.toNat + 1) % 256 + s.w.toNat) % 256 < 2 ^ 8 := Nat.mod_lt _ (by decide)
  rw [hd.pc, if_pos rfl, BitVec.toNat_append, hsum, ← Nat.shiftLeft_add_eq_or_of_lt hlow, Nat.shiftLeft_eq]

end Sys2Proof.Machine

/-! The statements on the architectural state (10_state.md), settled. -/

namespace Sys2Proof.Proofs

open Sys2Proof Sys2Proof.Machine

/-- Settles O15, by the inversion of a step: only the execution of an instruction can set GIE. -/
theorem gieRisesOnlyByRetfieOrIntcon : Obligations.GieRisesOnlyByRetfieOrIntcon := by
  unfold Obligations.GieRisesOnlyByRetfieOrIntcon
  exact fun _ _ => step_gie_rises

/-- Settles O13, by the inversion of an instruction that completes. -/
theorem flagsChangeOnlyAsTheTableSays : Obligations.FlagsChangeOnlyAsTheTableSays := by
  unfold Obligations.FlagsChangeOnlyAsTheTableSays
  intro i s t h
  refine ⟨exec_keeps_unlisted_flags h, exec_keeps_TO_PD h, ?clrwdt, ?sleep, exec_clear_sets_Z h, ?retfie,
    exec_keeps_gie h⟩
  case clrwdt => rintro rfl; exact exec_clrwdt_TO_PD h
  case sleep => rintro rfl; exact exec_sleep_TO_PD h
  case retfie => rintro rfl; exact exec_retfie_gie h

/-- Settles O14: the frame of W, and the independence of W, instruction by instruction. -/
theorem onlyTheListedInstructionsUseW : Obligations.OnlyTheListedInstructionsUseW := by
  unfold Obligations.OnlyTheListedInstructionsUseW
  exact ⟨fun _ _ _ => exec_keeps_w, fun _ s v hr => exec_setW hr s v⟩

/-- Settles O16: executing with other counts gives the same state up to the counts. -/
theorem countsAreInvisibleToInstructions : Obligations.CountsAreInvisibleToInstructions := by
  unfold Obligations.CountsAreInvisibleToInstructions
  exact fun i s wdt psc c => exec_withCounts s wdt psc c i

/-- Settles O22, from the delivery of a result to STATUS. -/
theorem statusAsDestination : Obligations.StatusAsDestination := by
  unfold Obligations.StatusAsDestination
  refine ⟨fun s a r ha => ?_, fun _ _ => exec_clrf_status, fun _ _ => exec_movwf_status⟩
  have hd := s.deliver_file a r
  exact ⟨hd.flagTO, hd.flagPD, fun _ => State.deliver_file_status_hi ha r,
    fun hr _ => State.deliver_file_status_low ha hr, State.deliver_file_flags⟩

/-- Settles O34, from the delivery of a result to PCL. -/
theorem computedJump : Obligations.ComputedJump := by
  unfold Obligations.ComputedJump
  exact fun _ _ => exec_addwf_pcl

/-- Settles O43, by induction on the list of pushes. -/
theorem theStackKeepsTheLastEightPushes : Obligations.TheStackKeepsTheLastEightPushes := by
  unfold Obligations.TheStackKeepsTheLastEightPushes
  exact State.stackEntry_foldl_push

/-- Settles O56: the reset is the whole step, and its fields are the table's. -/
theorem mclrReset : Obligations.MclrReset := by
  unfold Obligations.MclrReset
  intro s q he
  have hstep : step s = .next (s.moved.mclrReset q) := step_of_event (by rw [he]; rfl)
  obtain ⟨hbank, hto, hpd, hflags⟩ := resetStatus_fields (s.sleeping || s.flagTO) (!s.sleeping && s.flagPD)
    (s.status.extractLsb' 0 3)
  refine ⟨_, hstep, hbank, hflags, fun hs => ⟨hto.trans (by simp [hs]), hpd.trans (by simp [hs])⟩,
    fun hs => ⟨hto.trans (by simp [hs]), hpd.trans (by simp [hs])⟩, fun i hi => ?_, getLsbD_resetIntcon _ 0,
    State.tosWritten_of_stackWritten_zero rfl, ?_⟩
  · exact (getLsbD_resetIntcon _ i).trans (if_neg (by omega))
  · rw [← resetEecon1_eq]; rfl

/-- Settles O57: the reset is the whole step, and its fields are the table's and the environment's. -/
theorem powerOnReset : Obligations.PowerOnReset := by
  unfold Obligations.PowerOnReset
  intro s x he
  have hstep : step s = .next (s.moved.powerOnReset x) := step_of_event (by rw [he]; rfl)
  obtain ⟨hfixed, hz, hdc, hc⟩ := powerOnStatus_fields x.z x.dc x.c
  refine ⟨_, hstep, hfixed, hz, hdc, hc, fun i hi => ?_, getLsbD_resetIntcon _ 0,
    State.tosWritten_of_stackWritten_zero rfl, fun n hlo hhi => powerOnGpr_read s.params x.gpr hlo hhi, ?_⟩
  · exact (getLsbD_resetIntcon _ i).trans (if_neg (by omega))
  · rw [← resetEecon1_eq]; rfl

/-- Settles O7: the number of program words is a power of two. -/
theorem fetchIgnoresTheUpperAddressBits : Obligations.FetchIgnoresTheUpperAddressBits := by
  unfold Obligations.FetchIgnoresTheUpperAddressBits
  exact fun s a => ⟨State.progRead_words1024, State.progRead_words512⟩

/-- Settles O9: no memory lists anything at reset. -/
theorem resetHasTheStoreInvariant : Obligations.ResetHasTheStoreInvariant := by
  unfold Obligations.ResetHasTheStoreInvariant
  exact { gprWf := rfl, gprInRange := rfl, progWf := rfl, progInRange := rfl }

/-- Settles O42: the three returns are one pop, of the slot that is the top in `s`. -/
theorem returnsStopOnAnUnwrittenSlot : Obligations.ReturnsStopOnAnUnwrittenSlot := by
  unfold Obligations.ReturnsStopOnAnUnwrittenSlot
  exact fun s k h => ⟨s.popToPc_refused h, (s.setW k).popToPc_refused h, (s.setGie true).popToPc_refused h⟩

/-- Settles O54: the core is awake at reset. -/
theorem resetHasTheSleepInvariant : Obligations.ResetHasTheSleepInvariant := by
  unfold Obligations.ResetHasTheSleepInvariant
  intro hsleeping
  cases hsleeping

/-- Settles O58, by evaluation of the state after reset. -/
theorem resetValues : Obligations.ResetValues := by
  unfold Obligations.ResetValues
  decide

end Sys2Proof.Proofs

/-! The data memory: its map (rule R63), the effective address (rule R62), and what a read of each register returns
(rules R64, R66). -/

namespace Sys2Proof.Machine

/-! ## The map -/

/-- Both values of `GPR_LAST` lie above the special registers, within a designator's range (rule R4). -/
theorem gprLast_bounds (p : Config.DeviceParams) : 0x2F ≤ p.gprLast ∧ p.gprLast ≤ 0x4F := by
  unfold Config.DeviceParams.gprLast
  split <;> decide

/-- Bits 6:0 of a data address are its designator. -/
theorem address_designator (a : Byte) : (a.extractLsb' 0 7).toNat = a.toNat % 128 := by
  simp

/-- Bit 7 of a data address is its bank. -/
theorem address_bank (a : Byte) : a.getLsbD 7 = decide (128 ≤ a.toNat) := by
  have ha := a.isLt
  rw [BitVec.getLsbD, Nat.testBit_eq_decide_div_mod_eq, decide_eq_decide]
  omega

/-- From `GPR_FIRST` on the designator alone decides: a general purpose register up to `GPR_LAST`, then nothing. -/
theorem fileMap_of_gprFirst_le (p : Config.DeviceParams) {a : Byte} (h : Config.gprFirst ≤ a.toNat % 128) :
    fileMap p a = if a.toNat % 128 ≤ p.gprLast then .gpr (a.toNat % 128) else .unimplemented := by
  unfold fileMap
  rw [address_designator]
  generalize a.toNat % 128 = d at h
  unfold Config.gprFirst at h
  split
  case h_13 => simp [Config.gprFirst, h]
  all_goals omega

/-- A general purpose register stands at its designator in both banks, and nowhere else (rule R63). -/
theorem fileMap_eq_gpr (p : Config.DeviceParams) (a : Byte) (n : Nat) :
    fileMap p a = .gpr n ↔ n = a.toNat % 128 ∧ Config.gprFirst ≤ n ∧ n ≤ p.gprLast := by
  by_cases h : Config.gprFirst ≤ a.toNat % 128
  · rw [fileMap_of_gprFirst_le p h]
    split <;> simp <;> omega
  · unfold fileMap
    rw [address_designator, address_bank]
    unfold Config.gprFirst at h ⊢
    generalize a.toNat % 128 = d at h
    have hlt : d < 12 := Nat.not_le.1 h
    by_cases hb : 128 ≤ a.toNat
    · interval_cases d <;> simp [hb] <;> omega
    · interval_cases d <;> simp [hb] <;> omega

/-- Every other row of the map: each special register at its one or two addresses, and what has no register (rule R63). -/
theorem fileMap_eq_special (p : Config.DeviceParams) (a : Byte) :
    (fileMap p a = .indf ↔ a.toNat % 128 = 0) ∧ (fileMap p a = .tmr0 ↔ a.toNat = 0x01) ∧
    (fileMap p a = .optionReg ↔ a.toNat = 0x81) ∧ (fileMap p a = .pcl ↔ a.toNat % 128 = 2) ∧
    (fileMap p a = .status ↔ a.toNat % 128 = 3) ∧ (fileMap p a = .fsr ↔ a.toNat % 128 = 4) ∧
    (fileMap p a = .portA ↔ a.toNat = 0x05) ∧ (fileMap p a = .trisA ↔ a.toNat = 0x85) ∧
    (fileMap p a = .portB ↔ a.toNat = 0x06) ∧ (fileMap p a = .trisB ↔ a.toNat = 0x86) ∧
    (fileMap p a = .eedata ↔ a.toNat = 0x08) ∧ (fileMap p a = .eecon1 ↔ a.toNat = 0x88) ∧
    (fileMap p a = .eeadr ↔ a.toNat = 0x09) ∧ (fileMap p a = .eecon2 ↔ a.toNat = 0x89) ∧
    (fileMap p a = .pclath ↔ a.toNat % 128 = 0x0A) ∧ (fileMap p a = .intcon ↔ a.toNat % 128 = 0x0B) ∧
    (fileMap p a = .unimplemented ↔ a.toNat % 128 = 7 ∨ p.gprLast < a.toNat % 128) := by
  have ha := a.isLt
  obtain ⟨hlo, -⟩ := gprLast_bounds p
  by_cases h : Config.gprFirst ≤ a.toNat % 128
  · rw [fileMap_of_gprFirst_le p h]
    unfold Config.gprFirst at h
    split <;> simp only [reduceCtorEq, true_iff, false_iff] <;> omega
  · unfold fileMap
    rw [address_designator, address_bank]
    unfold Config.gprFirst at h
    generalize hd : a.toNat % 128 = d at h
    have hlt : d < 12 := Nat.not_le.1 h
    by_cases hb : 128 ≤ a.toNat
    · interval_cases d <;> simp [hb] <;> omega
    · interval_cases d <;> simp [hb] <;> omega

/-! ## The effective address -/

/-- Designator 0 is indirect: the address is FSR's (rule R62). -/
theorem State.ea_indirect (s : State) : s.ea 0#7 = s.fsr := if_pos rfl

/-- Any other designator is direct: 128 for bank 1, plus the designator (rule R62). -/
theorem State.ea_direct_toNat (s : State) {f : Designator} (hf : f ≠ 0#7) :
    (s.ea f).toNat = (if s.rp0 then 128 else 0) + f.toNat := by
  have hea : s.ea f = BitVec.ofBool s.rp0 ++ f := if_neg hf
  rw [hea, BitVec.toNat_append, ← Nat.shiftLeft_add_eq_or_of_lt f.isLt]
  cases s.rp0 <;> rfl

/-- Only FSR and RP0 decide an effective address (rule R62). -/
theorem State.ea_congr {s t : State} (hfsr : t.fsr = s.fsr) (hrp0 : t.rp0 = s.rp0) (f : Designator) :
    t.ea f = s.ea f := by
  unfold State.ea
  rw [hfsr, hrp0]

/-! ## The pins -/

/-- A pin of PORTA: the outside level on an input or an overdriven output, the latch bit on any other output (rule R66). -/
theorem State.getLsbD_pinsA (s : State) (i : Nat) :
    s.pinsA.getLsbD i =
      if s.trisA.getLsbD i || s.loadA.getLsbD i then s.extA.getLsbD i else s.latchA.getLsbD i := by
  simp [State.pinsA]

/-- A pin of PORTB likewise (rule R66). -/
theorem State.getLsbD_pinsB (s : State) (i : Nat) :
    s.pinsB.getLsbD i =
      if s.trisB.getLsbD i || s.loadB.getLsbD i then s.extB.getLsbD i else s.latchB.getLsbD i := by
  simp [State.pinsB]

/-! ## MemRead -/

section
variable {s : State} {a : Byte}

theorem State.memRead_tmr0 (ha : fileMap s.params a = .tmr0) : s.memRead a = s.tmr0 := by
  simp [State.memRead, ha]

theorem State.memRead_optionReg (ha : fileMap s.params a = .optionReg) : s.memRead a = s.optionReg := by
  simp [State.memRead, ha]

theorem State.memRead_status (ha : fileMap s.params a = .status) : s.memRead a = s.status := by
  simp [State.memRead, ha]

theorem State.memRead_fsr (ha : fileMap s.params a = .fsr) : s.memRead a = s.fsr := by
  simp [State.memRead, ha]

theorem State.memRead_portA (ha : fileMap s.params a = .portA) : s.memRead a = s.pinsA.setWidth 8 := by
  simp [State.memRead, ha]

theorem State.memRead_trisA (ha : fileMap s.params a = .trisA) : s.memRead a = s.trisA.setWidth 8 := by
  simp [State.memRead, ha]

theorem State.memRead_portB (ha : fileMap s.params a = .portB) : s.memRead a = s.pinsB := by
  simp [State.memRead, ha]

theorem State.memRead_trisB (ha : fileMap s.params a = .trisB) : s.memRead a = s.trisB := by
  simp [State.memRead, ha]

theorem State.memRead_eedata (ha : fileMap s.params a = .eedata) : s.memRead a = s.eedata := by
  simp [State.memRead, ha]

theorem State.memRead_eeadr (ha : fileMap s.params a = .eeadr) : s.memRead a = s.eeadr := by
  simp [State.memRead, ha]

theorem State.memRead_eecon1 (ha : fileMap s.params a = .eecon1) : s.memRead a = s.eecon1.setWidth 8 := by
  simp [State.memRead, ha]

theorem State.memRead_pclath (ha : fileMap s.params a = .pclath) : s.memRead a = s.pclath.setWidth 8 := by
  simp [State.memRead, ha]

theorem State.memRead_intcon (ha : fileMap s.params a = .intcon) : s.memRead a = s.intcon := by
  simp [State.memRead, ha]

theorem State.memRead_gpr {n : Nat} (ha : fileMap s.params a = .gpr n) : s.memRead a = Memory.read s.gpr n := by
  simp [State.memRead, ha]

/-- An address without storage reads 0 and stores nothing (rules R62, R63). -/
theorem State.memRead_memWrite_of_no_storage (ha : fileMap s.params a ∈ [.indf, .eecon2, .unimplemented]) :
    s.memRead a = 0x00#8 ∧ ∀ aff v, s.memWrite aff a v = s := by
  simp only [List.mem_cons, List.not_mem_nil, or_false] at ha
  obtain ha | ha | ha := ha <;> simp [State.memRead, State.memWrite, ha]

/-- PORTA bit by bit: five pins, bits 7:5 zero (rule R66). -/
theorem State.getLsbD_memRead_portA (ha : fileMap s.params a = .portA) (i : Nat) :
    (s.memRead a).getLsbD i = (decide (i < 5) &&
      if s.trisA.getLsbD i || s.loadA.getLsbD i then s.extA.getLsbD i else s.latchA.getLsbD i) := by
  rw [State.memRead_portA ha, BitVec.getLsbD_setWidth, State.getLsbD_pinsA]
  by_cases hi : i < 5
  · simp [hi, show i < 8 by omega]
  · simp [hi, BitVec.getLsbD_of_ge _ i (Nat.not_lt.1 hi)]

/-- PORTB bit by bit: eight pins (rule R66). -/
theorem State.getLsbD_memRead_portB (ha : fileMap s.params a = .portB) (i : Nat) :
    (s.memRead a).getLsbD i =
      if s.trisB.getLsbD i || s.loadB.getLsbD i then s.extB.getLsbD i else s.latchB.getLsbD i := by
  rw [State.memRead_portB ha, State.getLsbD_pinsB]

/-- PCL as a number: the low byte of the next instruction's address (rule R29). -/
theorem State.memRead_pcl_toNat (ha : fileMap s.params a = .pcl) :
    (s.memRead a).toNat = (s.pc.toNat + 1) % 256 := by
  rw [State.memRead_pcl ha, lowByte_toNat, BitVec.toNat_add]
  simp

/-- A five-bit register read as a byte is the same number (rule R63: unimplemented bits read 0). -/
theorem setWidth_five_eight_toNat (x : BitVec 5) : (x.setWidth 8).toNat = x.toNat :=
  BitVec.toNat_setWidth_of_le (by decide)

end

end Sys2Proof.Machine

/-! What a written file register reads back (rules R29, R46, R63 to R66). -/

namespace Sys2Proof.Machine

/-- The implemented bits of a byte that passes through a five-bit register (rule R63). -/
theorem setWidth_five_eight (v : Byte) : (v.setWidth 5).setWidth 8 = v &&& 0x1F#8 := by
  apply BitVec.eq_of_toNat_eq
  rw [setWidth_five_eight_toNat, BitVec.toNat_setWidth, BitVec.toNat_and]
  exact (Nat.and_two_pow_sub_one_eq_mod v.toNat 5).symm

/-- What STATUS takes from a written byte, as two masks (rule R46). -/
theorem statusWritten_eq (aff : Bool) (old v : Byte) :
    statusWritten aff old v =
      if aff then (v &&& 0b11100000#8) ||| (old &&& 0b00011111#8)
      else (v &&& 0b11100111#8) ||| (old &&& 0b00011000#8) := by
  cases aff <;> rfl

/-- The low byte of the address behind the one that PCLATH and a byte name (rule R29). -/
theorem lowByte_append_add_one (h : BitVec 5) (v : Byte) : lowByte (h ++ v + 1#13) = v + 1#8 := by
  apply BitVec.eq_of_toNat_eq
  have hlow : (h ++ v).toNat % 256 = v.toNat := by
    rw [BitVec.toNat_append, ← Nat.shiftLeft_add_eq_or_of_lt v.isLt, Nat.shiftLeft_eq]
    have := v.isLt
    omega
  rw [lowByte_toNat, BitVec.toNat_add, BitVec.toNat_add]
  simp only [BitVec.toNat_ofNat]
  omega

section
variable {s : State} {a : Byte} (aff : Bool) (v : Byte)

/-- The map after a write is the map before it: no write changes the device variant. -/
theorem State.fileMap_memWrite {r : FileReg} (ha : fileMap s.params a = r) :
    fileMap (s.memWrite aff a v).params a = r := by
  rw [State.memWrite_params, ha]

/-- A register that holds all eight bits reads back what was written (rule R65). -/
theorem State.memRead_memWrite_full
    (ha : fileMap s.params a ∈ [.tmr0, .optionReg, .fsr, .trisB, .eedata, .eeadr, .intcon]) :
    (s.memWrite aff a v).memRead a = v := by
  simp only [List.mem_cons, List.not_mem_nil, or_false] at ha
  obtain ha | ha | ha | ha | ha | ha | ha := ha <;> simp [State.memRead, ha]

/-- A general purpose register reads back what was written (rules R64, R65). -/
theorem State.memRead_memWrite_gpr {n : Nat} (ha : fileMap s.params a = .gpr n) :
    (s.memWrite aff a v).memRead a = v := by
  rw [State.memRead_gpr (State.fileMap_memWrite aff v ha), State.memWrite_read, if_pos ha]

/-- A five-bit register reads back the implemented bits (rule R63). -/
theorem State.memRead_memWrite_five (ha : fileMap s.params a ∈ [.trisA, .eecon1, .pclath]) :
    (s.memWrite aff a v).memRead a = v &&& 0x1F#8 := by
  rw [← setWidth_five_eight]
  simp only [List.mem_cons, List.not_mem_nil, or_false] at ha
  obtain ha | ha | ha := ha <;> simp [State.memRead, ha]

/-- STATUS reads back what rule R46 lets in. -/
theorem State.memRead_memWrite_status (ha : fileMap s.params a = .status) :
    (s.memWrite aff a v).memRead a = statusWritten aff s.status v := by
  rw [State.memRead_status (State.fileMap_memWrite aff v ha), State.memWrite_status, if_pos ha]

/-- PORTA reads back the byte on the pins that show their latch (rule R66). -/
theorem State.memRead_memWrite_portA (ha : fileMap s.params a = .portA) (i : Nat) :
    ((s.memWrite aff a v).memRead a).getLsbD i =
      (decide (i < 5) && if s.trisA.getLsbD i || s.loadA.getLsbD i then s.extA.getLsbD i else v.getLsbD i) := by
  rw [State.getLsbD_memRead_portA (State.fileMap_memWrite aff v ha)]
  by_cases hi : i < 5 <;> simp [ha, hi]

/-- PORTB reads back the byte on the pins that show their latch (rule R66). -/
theorem State.memRead_memWrite_portB (ha : fileMap s.params a = .portB) (i : Nat) :
    ((s.memWrite aff a v).memRead a).getLsbD i =
      if s.trisB.getLsbD i || s.loadB.getLsbD i then s.extB.getLsbD i else v.getLsbD i := by
  rw [State.getLsbD_memRead_portB (State.fileMap_memWrite aff v ha)]
  simp [ha]

/-- PCL, written and read within one boundary, shows the address behind the one jumped to (rule R29). -/
theorem State.memRead_memWrite_pcl (ha : fileMap s.params a = .pcl) : (s.memWrite aff a v).memRead a = v + 1#8 := by
  rw [State.memRead_pcl (State.fileMap_memWrite aff v ha), State.memWrite_pc, if_pos ha, lowByte_append_add_one]

end

end Sys2Proof.Machine

/-! The canonical form of the general purpose registers determines them by their contents. -/

namespace Sys2Proof.Machine

/-- Below every listed address nothing is listed. -/
theorem Memory.read_of_below {m : Memory} {k : Nat} (h : ∀ c ∈ m, k < c.1) : Memory.read m k = gprDefault := by
  induction m with
  | nil => rfl
  | cons c m ih =>
    have hk : c.1 ≠ k := (h c (by simp)).ne'
    exact (if_neg hk).trans (ih fun c hc => h c (by simp [hc]))

/-- The first entry of a canonical memory tells it from every memory that lists nothing up to there: its byte is not the
default. -/
theorem Memory.read_ne_of_head_below {c : Host.Cell} {m n : Memory} (hm : Memory.wf (c :: m) = true)
    (hn : ∀ d ∈ n, c.1 < d.1) : Memory.read (c :: m) c.1 ≠ Memory.read n c.1 := by
  obtain ⟨hbyte, -, -⟩ := (Memory.wf_cons c.1 c.2 m).1 hm
  have hhead : Memory.read (c :: m) c.1 = c.2 := if_pos rfl
  rwa [Memory.read_of_below hn, hhead]

/-- The canonical form is unique: memories in it that read alike are equal. -/
theorem Memory.eq_of_read_eq {m n : Memory} (hm : Memory.wf m = true) (hn : Memory.wf n = true)
    (h : ∀ k, Memory.read m k = Memory.read n k) : m = n := by
  induction m generalizing n with
  | nil =>
    cases n with
    | nil => rfl
    | cons d n => exact absurd (h d.1).symm (Memory.read_ne_of_head_below hn (by simp))
  | cons c m ih =>
    cases n with
    | nil => exact absurd (h c.1) (Memory.read_ne_of_head_below hm (by simp))
    | cons d n =>
      obtain ⟨-, hcm, hm'⟩ := (Memory.wf_cons c.1 c.2 m).1 hm
      obtain ⟨-, hdn, hn'⟩ := (Memory.wf_cons d.1 d.2 n).1 hn
      obtain hlt | heq | hgt := lt_trichotomy c.1 d.1
      · have hbelow : ∀ e ∈ d :: n, c.1 < e.1 := List.forall_mem_cons.2 ⟨hlt, fun e he => hlt.trans (hdn e he)⟩
        exact absurd (h c.1) (Memory.read_ne_of_head_below hm hbelow)
      · have hbyte : c.2 = d.2 := by simpa [Memory.read, heq] using h d.1
        have htails : ∀ k, Memory.read m k = Memory.read n k := by
          intro k
          by_cases hk : d.1 = k
          · rw [Memory.read_of_below fun e he => hk ▸ heq ▸ hcm e he,
              Memory.read_of_below fun e he => hk ▸ hdn e he]
          · simpa [Memory.read, heq, hk] using h k
        rw [ih hm' hn' htails, Prod.ext heq hbyte]
      · have hbelow : ∀ e ∈ c :: m, d.1 < e.1 := List.forall_mem_cons.2 ⟨hgt, fun e he => hgt.trans (hcm e he)⟩
        exact absurd (h d.1).symm (Memory.read_ne_of_head_below hn hbelow)

end Sys2Proof.Machine

/-! The store invariant along every step (rules R60, R63). -/

namespace Sys2Proof

open Sys2Proof.Machine

/-- The store invariant speaks of the two memories and the device variant only. -/
theorem StoreInv.congr {s t : State} (hs : StoreInv s) (hgpr : t.gpr = s.gpr) (hprog : t.prog = s.prog)
    (hparams : t.params = s.params) : StoreInv t where
  gprWf := hgpr ▸ hs.gprWf
  gprInRange := hgpr ▸ hparams ▸ hs.gprInRange
  progWf := hprog ▸ hs.progWf
  progInRange := hprog ▸ hparams ▸ hs.progInRange

/-- A write reaches the general purpose registers only where the map has one, which lies in the implemented range. -/
theorem StoreInv.memWrite {s : State} (hs : StoreInv s) (aff : Bool) (a v : Byte) : StoreInv (s.memWrite aff a v) := by
  unfold State.memWrite
  split
  case h_17 n ha =>
    obtain ⟨-, hrange⟩ := (fileMap_eq_gpr s.params a n).1 ha
    exact { hs with
      gprWf := Memory.wf_write _ _ _ hs.gprWf
      gprInRange := Memory.inRange_write _ _ _ _ hrange hs.gprInRange }
  all_goals exact hs.congr rfl rfl rfl

theorem StoreInv.deliver {s : State} (hs : StoreInv s) (d : Dest) (a : Byte) (r : AluResult) :
    StoreInv (s.deliver d a r) := by
  cases d with
  | w => exact hs.congr rfl rfl rfl
  | file =>
    have hadvanced : StoreInv s.advance := hs.congr rfl rfl rfl
    exact (hadvanced.memWrite r.flags.affectsAny a r.value).congr rfl rfl rfl

theorem StoreInv.skipIf {s : State} (hs : StoreInv s) (c : Bool) : StoreInv (s.skipIf c) := by
  cases c <;> exact hs.congr rfl rfl rfl

/-- Every instruction that completes keeps the store invariant: it delivers one result, or touches no memory. -/
theorem StoreInv.exec {i : Instr} {s t : State} (hs : StoreInv s) (h : exec i s = .next t) : StoreInv t := by
  cases i with
  | addwf f d | andwf f d | comf f d | decf f d | incf f d | iorwf f d | movf f d | rlf f d | rrf f d | subwf f d
  | swapf f d | xorwf f d => cases h; exact hs.deliver d _ _
  | clrf f | movwf f | bcf f b | bsf f b => cases h; exact hs.deliver .file _ _
  | decfsz f d | incfsz f d =>
    obtain ⟨-, rfl⟩ := (s.stepAndSkip_eq_next t f d _).1 h
    exact (hs.deliver d _ _).skipIf _
  | clrw | addlw | andlw | iorlw | movlw | sublw | xorlw => cases h; exact hs.deliver .w 0#8 _
  | btfsc f b | btfss f b =>
    cases h
    have hadvanced : StoreInv s.advance := hs.congr rfl rfl rfl
    exact hadvanced.skipIf _
  | ret | retlw k | retfie =>
    obtain ⟨-, rfl⟩ := (State.popToPc_eq_next ..).1 h
    exact hs.congr rfl rfl rfl
  | nop | call | goto | clrwdt | option => cases h; exact hs.congr rfl rfl rfl
  | sleep =>
    cases exec_cases h with
    | result _ _ _ _ hi => exact absurd rfl hi.2.1
    | sleep => exact hs.congr rfl rfl rfl
  | tris f =>
    cases exec_cases h with
    | result _ _ hw => exact absurd rfl (hw rfl)
    | trisA | trisB => exact hs.congr rfl rfl rfl

/-- A reset or time-out keeps the store invariant: power-on fills the registers anew, the others leave them (rule R50). -/
theorem StoreInv.eventOutcome {s t : State} {e : Option LineEvent} (hs : StoreInv s)
    (h : s.eventOutcome e = some t) : StoreInv t := by
  cases e with
  | none => cases h
  | some e =>
    cases e with
    | powerOn x =>
      cases h
      obtain ⟨hwf, hrange⟩ := powerOnGpr_wf s.params x.gpr
      exact { hs with gprWf := hwf, gprInRange := hrange }
    | mclr q => cases h; exact hs.congr rfl rfl rfl
    | watchdog q =>
      simp only [State.eventOutcome, Option.ite_none_right_eq_some, Option.some.injEq] at h
      obtain ⟨-, rfl⟩ := h
      split <;> exact hs.congr rfl rfl rfl

/-- Every step keeps the store invariant: only a power-on reset and an instruction that delivers to a general purpose
register touch a memory. -/
theorem StoreInv.step {s t : State} (hs : StoreInv s) (h : step s = .next t) : StoreInv t := by
  have hmoved : StoreInv s.moved := hs.congr rfl rfl rfl
  cases step_cases h with
  | event he => exact hmoved.eventOutcome he
  | asleep _ _ _ ht => exact ht ▸ hmoved
  | wake _ _ _ ht => subst ht; exact hmoved.congr rfl rfl rfl
  | entry _ _ _ _ ht => subst ht; exact hmoved.congr rfl rfl rfl
  | instr i w _ _ _ _ _ ht =>
    have hawake : StoreInv s.moved.endWake := hmoved.congr rfl rfl rfl
    exact hawake.exec ht

end Sys2Proof

/-! Program memory: no step writes it, and no instruction reads it (rules R61, R77). -/

namespace Sys2Proof.Machine

/-! ## The frame -/

@[simp] theorem State.skipIf_prog (s : State) (c : Bool) : (s.skipIf c).prog = s.prog := by cases c <;> rfl
@[simp] theorem State.skipIf_params (s : State) (c : Bool) : (s.skipIf c).params = s.params := by cases c <;> rfl
@[simp] theorem State.skipIf_psc (s : State) (c : Bool) : (s.skipIf c).psc = s.psc := by cases c <;> rfl

/-- No instruction writes program memory or changes the device variant (rules R4, R61). -/
theorem exec_keeps_program {i : Instr} {s t : State} (h : exec i s = .next t) :
    t.prog = s.prog ∧ t.params = s.params := by
  cases exec_cases h with
  | result c hd => simpa using hd.program
  | nop | btfsc | btfss | call | goto | ret | retlw | retfie | clrwdt | sleep | option | trisA | trisB => simp

/-- No reset or time-out writes program memory or changes the device variant (rules R4, R61). -/
theorem State.eventOutcome_keeps_program {s t : State} {e : Option LineEvent} (h : s.eventOutcome e = some t) :
    t.prog = s.prog ∧ t.params = s.params := by
  cases e with
  | none => cases h
  | some e =>
    cases e with
    | powerOn x => cases h; exact ⟨rfl, rfl⟩
    | mclr q => cases h; exact ⟨rfl, rfl⟩
    | watchdog q =>
      simp only [State.eventOutcome, Option.ite_none_right_eq_some, Option.some.injEq] at h
      obtain ⟨-, rfl⟩ := h
      split <;> exact ⟨rfl, rfl⟩

/-- No step writes program memory or changes the device variant (rules R4, R61). -/
theorem step_keeps_program {s t : State} (h : step s = .next t) : t.prog = s.prog ∧ t.params = s.params := by
  cases step_cases h with
  | event he =>
    have hkeep : t.prog = s.moved.prog ∧ t.params = s.moved.params := State.eventOutcome_keeps_program he
    exact hkeep
  | asleep _ _ _ ht => subst ht; exact ⟨rfl, rfl⟩
  | wake _ _ _ ht => subst ht; exact ⟨rfl, rfl⟩
  | entry _ _ _ _ ht => subst ht; exact ⟨rfl, rfl⟩
  | instr i w _ _ _ _ _ ht =>
    have hkeep : t.prog = s.moved.endWake.prog ∧ t.params = s.moved.endWake.params := exec_keeps_program ht
    exact hkeep

/-! ## Independence -/

/-- The state with another program loaded. -/
def State.withProg (s : State) (p : Program) : State := { s with prog := p }

section
variable (s : State) (p : Program)

theorem State.memWrite_withProg (aff : Bool) (a v : Byte) :
    (s.withProg p).memWrite aff a v = (s.memWrite aff a v).withProg p := by
  have hparams : (s.withProg p).params = s.params := rfl
  unfold State.memWrite
  rw [hparams]
  split <;> rfl

theorem State.deliver_withProg (d : Dest) (a : Byte) (r : AluResult) :
    (s.withProg p).deliver d a r = (s.deliver d a r).withProg p := by
  cases d with
  | w => rfl
  | file => exact congrArg (State.setFlags · r.flags) (s.advance.memWrite_withProg p r.flags.affectsAny a r.value)

theorem State.skipIf_withProg (c : Bool) : (s.withProg p).skipIf c = (s.skipIf c).withProg p := by
  cases c <;> rfl

theorem State.stepAndSkip_withProg (f : Designator) (d : Dest) (r : Byte) :
    (s.withProg p).stepAndSkip f d r = mapNext (fun t => t.withProg p) (s.stepAndSkip f d r) := by
  have hreg : (s.withProg p).fileReg f = s.fileReg f := rfl
  have hea : (s.withProg p).ea f = s.ea f := rfl
  unfold State.stepAndSkip
  rw [hreg, hea, s.deliver_withProg, State.skipIf_withProg]
  split <;> rfl

theorem State.popToPc_withProg : (s.withProg p).popToPc = mapNext (fun t => t.withProg p) s.popToPc := by
  have htos : (s.withProg p).tosWritten = s.tosWritten := rfl
  unfold State.popToPc
  rw [htos]
  split <;> rfl

/-- No instruction's effect depends on program memory (rules R61, R77). -/
theorem exec_withProg (i : Instr) : exec i (s.withProg p) = mapNext (fun t => t.withProg p) (exec i s) := by
  cases i with
  | addwf f d | andwf f d | comf f d | decf f d | incf f d | iorwf f d | movf f d | rlf f d | rrf f d | subwf f d
  | swapf f d | xorwf f d => exact congrArg Host.Outcome.next (s.deliver_withProg p d _ _)
  | clrf f | movwf f | bcf f b | bsf f b => exact congrArg Host.Outcome.next (s.deliver_withProg p .file _ _)
  | decfsz f d | incfsz f d => exact s.stepAndSkip_withProg p f d _
  | btfsc f b | btfss f b => exact congrArg Host.Outcome.next (s.advance.skipIf_withProg p _)
  | ret => exact s.popToPc_withProg p
  | retlw k => exact (s.setW k).popToPc_withProg p
  | retfie => exact (s.setGie true).popToPc_withProg p
  | sleep =>
    have hpending : (s.withProg p).pending = s.pending := rfl
    change execSleep (s.withProg p) = mapNext _ (execSleep s)
    unfold execSleep
    rw [hpending]
    split <;> rfl
  | tris f =>
    change execTris f (s.withProg p) = mapNext _ (execTris f s)
    unfold execTris
    split <;> rfl
  | clrw | nop | addlw | andlw | call | clrwdt | goto | iorlw | movlw | sublw | xorlw | option => rfl

end

end Sys2Proof.Machine

/-! The instructions that write a file register: one read, one result, one delivery (rules R66, R67, R120, R235, R236). -/

namespace Sys2Proof.Machine

/-! ## One shape for all of them -/

/-- Every instruction that writes through a designator reads the register there, computes from that byte, W and C, and
delivers the result to the same register; DECFSZ and INCFSZ also skip (rule R120). -/
theorem exec_of_target {i : Instr} {f : Designator} (h : i.target = some f) :
    (∃ op : Byte → Bool → Byte → AluResult, ∀ s, exec i s = .next (s.byteOp f .file (op s.w s.flagC))) ∨
    ∃ g : Byte → Byte, ∀ s, exec i s = s.stepAndSkip f .file (g (s.memRead (s.ea f))) := by
  cases i with
  | addwf _ d => cases d <;> cases h; exact .inl ⟨fun w _ v => add8 w v, fun _ => rfl⟩
  | andwf _ d => cases d <;> cases h; exact .inl ⟨fun w _ v => resultZ (w &&& v), fun _ => rfl⟩
  | comf _ d => cases d <;> cases h; exact .inl ⟨fun _ _ v => resultZ (~~~v), fun _ => rfl⟩
  | decf _ d => cases d <;> cases h; exact .inl ⟨fun _ _ v => resultZ (v - 1#8), fun _ => rfl⟩
  | incf _ d => cases d <;> cases h; exact .inl ⟨fun _ _ v => resultZ (v + 1#8), fun _ => rfl⟩
  | iorwf _ d => cases d <;> cases h; exact .inl ⟨fun w _ v => resultZ (w ||| v), fun _ => rfl⟩
  | movf _ d => cases d <;> cases h; exact .inl ⟨fun _ _ v => resultZ v, fun _ => rfl⟩
  | rlf _ d => cases d <;> cases h; exact .inl ⟨fun _ c v => rotateLeft c v, fun _ => rfl⟩
  | rrf _ d => cases d <;> cases h; exact .inl ⟨fun _ c v => rotateRight c v, fun _ => rfl⟩
  | subwf _ d => cases d <;> cases h; exact .inl ⟨fun w _ v => sub8 v w, fun _ => rfl⟩
  | swapf _ d => cases d <;> cases h; exact .inl ⟨fun _ _ v => resultOnly (swapNibbles v), fun _ => rfl⟩
  | xorwf _ d => cases d <;> cases h; exact .inl ⟨fun w _ v => resultZ (w ^^^ v), fun _ => rfl⟩
  | clrf _ => cases h; exact .inl ⟨fun _ _ _ => resultZ 0x00#8, fun _ => rfl⟩
  | movwf _ => cases h; exact .inl ⟨fun w _ _ => resultOnly w, fun _ => rfl⟩
  | bcf _ b => cases h; exact .inl ⟨fun _ _ v => resultOnly (withBit v b.toNat false), fun _ => rfl⟩
  | bsf _ b => cases h; exact .inl ⟨fun _ _ v => resultOnly (withBit v b.toNat true), fun _ => rfl⟩
  | decfsz _ d => cases d <;> cases h; exact .inr ⟨fun v => v - 1#8, fun _ => rfl⟩
  | incfsz _ d => cases d <;> cases h; exact .inr ⟨fun v => v + 1#8, fun _ => rfl⟩
  | _ => cases h

/-- An instruction has a file register as destination only by a designator that reaches it. -/
theorem State.written_eq_some {s : State} {i : Instr} {r : FileReg} (h : s.written i = some r) :
    ∃ f, i.target = some f ∧ s.fileReg f = r :=
  Option.map_eq_some_iff.1 h

/-- Two states in which a designator reaches the same register, reads the same byte, and is delivered any result with the
same outcome, are the same to every instruction that writes through it. -/
theorem exec_congr_of_target {i : Instr} {f : Designator} {s t : State} (h : i.target = some f) (hw : t.w = s.w)
    (hc : t.flagC = s.flagC) (hea : t.ea f = s.ea f) (hparams : t.params = s.params)
    (hread : t.memRead (s.ea f) = s.memRead (s.ea f))
    (hdeliver : ∀ r, t.deliver .file (s.ea f) r = s.deliver .file (s.ea f) r) : exec i t = exec i s := by
  obtain ⟨op, hop⟩ | ⟨g, hg⟩ := exec_of_target h
  · simp only [hop, State.byteOp, hw, hc, hea, hread, hdeliver]
  · simp only [hg, State.stepAndSkip, State.fileReg, hea, hparams, hread, hdeliver]

/-! ## The ports -/

/-- A delivery to PORTA replaces its latch, whatever it held. -/
theorem State.deliver_portA_latch {s : State} {a : Byte} (ha : fileMap s.params a = .portA) (l : BitVec 5)
    (r : AluResult) : ({ s with latchA := l } : State).deliver .file a r = s.deliver .file a r := by
  simp [State.deliver, State.memWrite, ha, State.advance, State.setFlags]

/-- A delivery to PORTB replaces its latch, whatever it held. -/
theorem State.deliver_portB_latch {s : State} {a : Byte} (ha : fileMap s.params a = .portB) (l : Byte)
    (r : AluResult) : ({ s with latchB := l } : State).deliver .file a r = s.deliver .file a r := by
  simp [State.deliver, State.memWrite, ha, State.advance, State.setFlags]

/-- PORTA's latch counts only through the pins for an instruction whose destination is PORTA (rule R66). -/
theorem exec_portA_latch {i : Instr} {s : State} {l : BitVec 5} (h : s.written i = some .portA)
    (hpins : ({ s with latchA := l } : State).pinsA = s.pinsA) : exec i { s with latchA := l } = exec i s := by
  obtain ⟨f, hf, hreg⟩ := State.written_eq_some h
  have ha : fileMap s.params (s.ea f) = .portA := hreg
  refine exec_congr_of_target hf rfl rfl rfl rfl ?_ (State.deliver_portA_latch ha l)
  rw [State.memRead_portA ha, State.memRead_portA (s := { s with latchA := l }) ha, hpins]

/-- PORTB's latch counts only through the pins for an instruction whose destination is PORTB (rule R66). -/
theorem exec_portB_latch {i : Instr} {s : State} {l : Byte} (h : s.written i = some .portB)
    (hpins : ({ s with latchB := l } : State).pinsB = s.pinsB) : exec i { s with latchB := l } = exec i s := by
  obtain ⟨f, hf, hreg⟩ := State.written_eq_some h
  have ha : fileMap s.params (s.ea f) = .portB := hreg
  refine exec_congr_of_target hf rfl rfl rfl rfl ?_ (State.deliver_portB_latch ha l)
  rw [State.memRead_portB ha, State.memRead_portB (s := { s with latchB := l }) ha, hpins]

section
variable {s : State} {f : Designator}

/-- PORTA's latch after a read-modify-write: the low five bits of the result computed from the pins (rules R66, R235). -/
theorem State.byteOp_latchA (hf : s.fileReg f = .portA) (op : Byte → AluResult) :
    (s.byteOp f .file op).latchA = (op (s.pinsA.setWidth 8)).value.setWidth 5 := by
  have hd := s.byteOp_delivers f .file op
  rw [hd.latchA, if_pos (show s.dest f .file = _ from congrArg some hf), State.memRead_portA hf]

/-- PORTB's latch after a read-modify-write: the result computed from the pins (rules R66, R235). -/
theorem State.byteOp_latchB (hf : s.fileReg f = .portB) (op : Byte → AluResult) :
    (s.byteOp f .file op).latchB = (op s.pinsB).value := by
  have hd := s.byteOp_delivers f .file op
  rw [hd.latchB, if_pos (show s.dest f .file = _ from congrArg some hf), State.memRead_portB hf]

/-- BSF and BCF on PORTA: every other latch bit takes the level of its pin. -/
theorem State.byteOp_withBit_latchA (hf : s.fileReg f = .portA) (b : BitIndex) (c : Bool) {i : Nat} (hi : i < 5) :
    (s.byteOp f .file fun v => resultOnly (withBit v b.toNat c)).latchA.getLsbD i =
      if i = b.toNat then c
      else if s.trisA.getLsbD i || s.loadA.getLsbD i then s.extA.getLsbD i else s.latchA.getLsbD i := by
  have hb : b.toNat < 8 := b.isLt
  simp only [State.byteOp_latchA hf, resultOnly, BitVec.getLsbD_setWidth, getLsbD_withBit, State.getLsbD_pinsA, hi, hb,
    show i < 8 by omega, decide_true, Bool.true_and, and_true]

/-- BSF and BCF on PORTB: every other latch bit takes the level of its pin. -/
theorem State.byteOp_withBit_latchB (hf : s.fileReg f = .portB) (b : BitIndex) (c : Bool) (i : Nat) :
    (s.byteOp f .file fun v => resultOnly (withBit v b.toNat c)).latchB.getLsbD i =
      if i = b.toNat then c
      else if s.trisB.getLsbD i || s.loadB.getLsbD i then s.extB.getLsbD i else s.latchB.getLsbD i := by
  have hb : b.toNat < 8 := b.isLt
  simp only [State.byteOp_latchB hf, resultOnly, getLsbD_withBit, State.getLsbD_pinsB, hb, and_true]

/-- `MOVF PORTA, 1`: every latch bit takes the level of its pin. -/
theorem State.byteOp_movf_latchA (hf : s.fileReg f = .portA) {i : Nat} (hi : i < 5) :
    (s.byteOp f .file fun v => resultZ v).latchA.getLsbD i =
      if s.trisA.getLsbD i || s.loadA.getLsbD i then s.extA.getLsbD i else s.latchA.getLsbD i := by
  simp only [State.byteOp_latchA hf, resultZ, BitVec.getLsbD_setWidth, State.getLsbD_pinsA, hi, show i < 8 by omega,
    decide_true, Bool.true_and]

/-- `MOVF PORTB, 1`: every latch bit takes the level of its pin. -/
theorem State.byteOp_movf_latchB (hf : s.fileReg f = .portB) (i : Nat) :
    (s.byteOp f .file fun v => resultZ v).latchB.getLsbD i =
      if s.trisB.getLsbD i || s.loadB.getLsbD i then s.extB.getLsbD i else s.latchB.getLsbD i := by
  simp only [State.byteOp_latchB hf, resultZ, State.getLsbD_pinsB]

end

/-! ## TMR0 -/

/-- The prescaler's count after a write of TMR0: cleared exactly when the prescaler is Timer0's (rules R67, R236). -/
theorem exec_tmr0_psc {i : Instr} {s t : State} (hw : s.written i = some .tmr0) (h : exec i s = .next t) :
    t.psc = if s.prescalerOnWdt then s.psc else 0x00#8 := by
  cases exec_cases h with
  | result c hd => cases hp : s.prescalerOnWdt <;> simp [hd.psc, hw, hp]
  | nop | btfsc | btfss | call | goto | ret | retlw | retfie | clrwdt | sleep | option | trisA | trisB => cases hw

end Sys2Proof.Machine

/-! The environment's moves (rule R68), and a boundary that comes to a fetch (rules R60, R101, R191). -/

namespace Sys2Proof.Machine

/-! ## INTCON after a move -/

/-- The mask of the three flags that a move may raise, bit by bit. -/
theorem getLsbD_flagMask (t0if intf rbif : Bool) (i : Nat) :
    (0#5 ++ BitVec.ofBool t0if ++ BitVec.ofBool intf ++ BitVec.ofBool rbif : Byte).getLsbD i =
      (decide (i = 2) && t0if || decide (i = 1) && intf || decide (i = 0) && rbif) := by
  by_cases hi : i < 8
  · have hbits : ∀ (j : Fin 8) (t0if intf rbif : Bool),
        (0#5 ++ BitVec.ofBool t0if ++ BitVec.ofBool intf ++ BitVec.ofBool rbif : Byte).getLsbD j =
          (decide (j.val = 2) && t0if || decide (j.val = 1) && intf || decide (j.val = 0) && rbif) := by decide
    exact hbits ⟨i, hi⟩ t0if intf rbif
  · rw [BitVec.getLsbD_of_ge _ i (Nat.not_lt.1 hi)]
    simp [show i ≠ 0 ∧ i ≠ 1 ∧ i ≠ 2 by omega]

/-- INTCON after a move, bit by bit: its three flags may be raised, T0IF only in an awake core (rules R68, R193, R206). -/
theorem State.getLsbD_flagsRaised (s : State) (m : EnvMove) (i : Nat) :
    (s.flagsRaised m).getLsbD i = (s.intcon.getLsbD i ||
      (decide (i = 2) && (m.setT0if && !s.sleeping) || decide (i = 1) && m.setIntf ||
        decide (i = 0) && m.setRbif)) := by
  rw [State.flagsRaised, BitVec.getLsbD_or, getLsbD_flagMask]

/-- T0IF after a move: raised only in an awake core (rules R68, R193). -/
theorem State.flagsRaised_T0IF (s : State) (m : EnvMove) :
    (s.flagsRaised m).getLsbD 2 = (s.intcon.getLsbD 2 || (m.setT0if && !s.sleeping)) := by
  rw [State.getLsbD_flagsRaised]
  simp

/-- INTF after a move (rule R68). -/
theorem State.flagsRaised_INTF (s : State) (m : EnvMove) :
    (s.flagsRaised m).getLsbD 1 = (s.intcon.getLsbD 1 || m.setIntf) := by
  rw [State.getLsbD_flagsRaised]
  simp

/-- RBIF after a move (rule R68). -/
theorem State.flagsRaised_RBIF (s : State) (m : EnvMove) :
    (s.flagsRaised m).getLsbD 0 = (s.intcon.getLsbD 0 || m.setRbif) := by
  rw [State.getLsbD_flagsRaised]
  simp

/-- A move reaches none of INTCON's upper five bits (rule R68). -/
theorem State.getLsbD_flagsRaised_high (s : State) (m : EnvMove) {i : Nat} (hi : 3 ≤ i) :
    (s.flagsRaised m).getLsbD i = s.intcon.getLsbD i := by
  rw [State.getLsbD_flagsRaised]
  simp [show i ≠ 0 ∧ i ≠ 1 ∧ i ≠ 2 by omega]

/-! ## A move to any wanted values -/

/-- A mask of all ones merges to the new value. -/
theorem mergeBits_allOnes {n : Nat} (x new v : BitVec n) : mergeBits (x ||| BitVec.allOnes n) new v = new := by
  apply BitVec.eq_of_getLsbD_eq
  intro i hi
  simp [hi]

/-- The move that gives TMR0, the pins and the EEPROM registers the given values and raises all three flags: every pin is
driven from outside, an output by overdriving it (rules R66, R68). -/
def EnvMove.giving (tmr0 pinsB eedata eeadr : Byte) (pinsA eecon1 : BitVec 5) : EnvMove where
  tmr0 := some tmr0
  setT0if := true
  setIntf := true
  setRbif := true
  extA := some pinsA
  extB := some pinsB
  loadA := some (BitVec.allOnes 5)
  loadB := some (BitVec.allOnes 8)
  eedata := some eedata
  eeadr := some eeadr
  eecon1 := some eecon1

/-- A move can give TMR0, every pin level and the EEPROM registers any value, and raise the flags (rule R68). -/
theorem State.applyMove_giving (s : State) (v b d e : Byte) (a c : BitVec 5) :
    (s.sleeping = false → (s.applyMove (.giving v b d e a c)).tmr0 = v ∧
      (s.applyMove (.giving v b d e a c)).intcon.getLsbD 2 = true) ∧
    (s.applyMove (.giving v b d e a c)).pinsA = a ∧ (s.applyMove (.giving v b d e a c)).pinsB = b ∧
    (s.applyMove (.giving v b d e a c)).intcon.extractLsb' 0 2 = 0b11#2 := by
  refine ⟨fun hs => ⟨by simp [EnvMove.giving, hs], ?_⟩, mergeBits_allOnes _ _ _, mergeBits_allOnes _ _ _, ?_⟩
  · rw [State.applyMove_intcon, State.flagsRaised_T0IF, hs]
    exact Bool.or_true _
  · apply BitVec.eq_of_getLsbD_eq
    intro i hi
    rw [State.applyMove_intcon, BitVec.getLsbD_extractLsb', State.getLsbD_flagsRaised]
    interval_cases i <;> simp [EnvMove.giving]

/-! ## The fetch -/

/-- A step of an awake core with no reset, time-out or unheld request fetches (00_scope.md section 6.5). -/
theorem step_eq_runFetched {s : State} (he : s.moved.eventOutcome s.nextMove.event = none)
    (hs : s.sleeping = false) (hr : (s.moved.request && !s.moved.afterWake) = false) :
    step s = s.moved.endWake.runFetched := by
  have hsleeping : s.moved.sleeping = false := hs
  unfold step State.cycle
  simp only [State.boundary_eq, he, State.interruptOutcome, hsleeping, hr, if_false, Bool.false_eq_true]

/-- A word never given a value stops the fetch (rule R60). -/
theorem State.runFetched_undefined {s : State} (h : s.progRead s.pc = none) :
    s.runFetched = .refused .fetchUndefined := by
  simp only [State.runFetched, h]

/-- An unassigned word stops the fetch under its own name (rule R101). -/
theorem State.runFetched_unassigned {s : State} {w u : ProgWord} (h : s.progRead s.pc = some w)
    (hd : decode w = .unassigned u) : s.runFetched = .refused (.unassignedOpcode u) := by
  simp only [State.runFetched, h, hd]

end Sys2Proof.Machine

/-! The statements on memory (20_memory.md), settled. -/

namespace Sys2Proof.Proofs

open Sys2Proof Sys2Proof.Machine

/-- Settles O8, by the inversion of a step: the memories are written one register at a time, or filled at power-on. -/
theorem everyStepKeepsTheStoreInvariant : Obligations.EveryStepKeepsTheStoreInvariant := by
  unfold Obligations.EveryStepKeepsTheStoreInvariant
  exact fun _ _ => StoreInv.step

/-- Settles O10, by induction on the two lists: the canonical form is unique. -/
theorem canonicalMemoriesThatReadAlikeAreEqual : Obligations.CanonicalMemoriesThatReadAlikeAreEqual := by
  unfold Obligations.CanonicalMemoriesThatReadAlikeAreEqual
  exact fun _ _ => Memory.eq_of_read_eq

/-- Settles O11: the frame of program memory along a step, and its independence, instruction by instruction. -/
theorem programMemoryIsNeitherWrittenNorRead : Obligations.ProgramMemoryIsNeitherWrittenNorRead := by
  unfold Obligations.ProgramMemoryIsNeitherWrittenNorRead
  exact ⟨fun _ _ => step_keeps_program, fun i s p => exec_withProg s p i⟩

/-- Settles O19, row by row of the map. -/
theorem dataMemoryMap : Obligations.DataMemoryMap := by
  unfold Obligations.DataMemoryMap
  intro p a
  obtain ⟨hindf, htmr0, hoption, hpcl, hstatus, hfsr, hportA, htrisA, hportB, htrisB, heedata, heecon1, heeadr,
    heecon2, hpclath, hintcon, hnone⟩ := fileMap_eq_special p a
  exact ⟨hindf, htmr0, hoption, hpcl, hstatus, hfsr, hportA, htrisA, hportB, htrisB, heedata, heecon1, heeadr,
    heecon2, hpclath, hintcon, fileMap_eq_gpr p a, hnone⟩

/-- Settles O20: a read after a write, register by register. -/
theorem writtenRegistersReadBack : Obligations.WrittenRegistersReadBack := by
  unfold Obligations.WrittenRegistersReadBack
  intro s aff a v
  refine ⟨State.memRead_memWrite_full aff v, fun n => State.memRead_memWrite_gpr aff v,
    State.memRead_memWrite_five aff v, fun ha => ?status, State.memRead_memWrite_portA aff v,
    fun ha i _ => State.memRead_memWrite_portB aff v ha i, State.memRead_memWrite_pcl aff v, fun ha => ?none⟩
  case status => rw [State.memRead_memWrite_status aff v ha, statusWritten_eq]
  case none =>
    obtain ⟨hread, hwrite⟩ := State.memRead_memWrite_of_no_storage ha
    exact ⟨hread, hwrite aff v⟩

/-- Settles O23: an instruction that writes a port computes from the pins and replaces the whole latch. -/
theorem portReadModifyWriteUsesThePins : Obligations.PortReadModifyWriteUsesThePins := by
  unfold Obligations.PortReadModifyWriteUsesThePins
  refine ⟨fun _ _ _ => exec_portA_latch, fun _ _ _ => exec_portB_latch, fun s f b hf => ?portA,
    fun s f b hf => ?portB⟩
  case portA =>
    refine ⟨⟨_, rfl, fun i hi => ?bsf⟩, ⟨_, rfl, fun i hi => ?bcf⟩, ⟨_, rfl, fun i hi => ?movf⟩⟩
    case bsf => exact State.byteOp_withBit_latchA hf b true hi
    case bcf => exact State.byteOp_withBit_latchA hf b false hi
    case movf => exact State.byteOp_movf_latchA hf hi
  case portB =>
    refine ⟨⟨_, rfl, fun i _ => ?bsf⟩, ⟨_, rfl, fun i _ => ?bcf⟩, ⟨_, rfl, fun i _ => ?movf⟩⟩
    case bsf => exact State.byteOp_withBit_latchB hf b true i
    case bcf => exact State.byteOp_withBit_latchB hf b false i
    case movf => exact State.byteOp_movf_latchB hf i

/-- Settles O24: a delivery to TMR0 clears Timer0's prescaler, whatever instruction makes it. -/
theorem writesOfTmr0ClearItsPrescaler : Obligations.WritesOfTmr0ClearItsPrescaler := by
  unfold Obligations.WritesOfTmr0ClearItsPrescaler
  intro i s t hw h
  have hpsc := exec_tmr0_psc hw h
  rw [State.prescalerOnWdt] at hpsc
  exact ⟨fun hp => by rw [hpsc, hp]; rfl, fun hp => by rw [hpsc, hp]; rfl⟩

/-- Settles O59: the frame of a move, INTCON bit by bit, and a move for any wanted values. -/
theorem environmentMovesAreBounded : Obligations.EnvironmentMovesAreBounded := by
  unfold Obligations.EnvironmentMovesAreBounded
  refine ⟨fun s m => ⟨s.applyMove_sameCore m, fun i => s.getLsbD_flagsRaised_high m, fun i hi => ?raises,
      fun hs => ?asleep⟩,
    fun s v b d e a c => ?free, fun s t i r hs => ?flags⟩
  case raises => simp [State.getLsbD_flagsRaised, hi]
  case asleep => exact ⟨if_pos hs, (s.flagsRaised_T0IF m).trans (by simp [hs])⟩
  case free =>
    obtain ⟨htimer, hA, hB, hflags⟩ := s.applyMove_giving v b d e a c
    exact ⟨.giving v b d e a c, rfl, htimer, hA, hB, rfl, rfl, rfl, rfl, rfl, hflags⟩
  case flags =>
    exact ⟨{ setT0if := t, setIntf := i, setRbif := r }, rfl, (s.flagsRaised_T0IF _).trans (by simp [hs]),
      s.flagsRaised_INTF _, s.flagsRaised_RBIF _⟩

/-- Settles O6: at a quiet boundary the step is the fetch, and the fetch stops under one of two names. -/
theorem stepStopsWhereNoInstructionStands : Obligations.StepStopsWhereNoInstructionStands := by
  unfold Obligations.StepStopsWhereNoInstructionStands
  intro s henv hs hr
  have hmoved : s.moved = s := State.moved_of_env_nil henv
  have hquiet : s.moved.eventOutcome s.nextMove.event = none := by rw [State.nextMove, henv]; rfl
  have hstep : step s = s.endWake.runFetched := by
    rw [step_eq_runFetched hquiet hs (by rw [hmoved, hr]; rfl), hmoved]
  exact ⟨fun h => hstep.trans (State.runFetched_undefined h),
    fun w h hd => hstep.trans (State.runFetched_unassigned h hd)⟩

/-- Settles O18, from the two forms of an effective address; FSR 0x00 and 0x80 are INDF's own addresses. -/
theorem effectiveAddressFormation : Obligations.EffectiveAddressFormation := by
  unfold Obligations.EffectiveAddressFormation
  refine ⟨State.ea_indirect, fun s f hf => s.ea_direct_toNat hf, fun s f irp rp1 => ?ignored, fun s h => ?indf⟩
  case ignored =>
    refine State.ea_congr ?_ ?_ f
    · rfl
    · simp [State.rp0]
  case indf =>
    rw [s.ea_indirect]
    have hmap : fileMap s.params s.fsr = .indf := by
      obtain ⟨hindf, -⟩ := fileMap_eq_special s.params s.fsr
      obtain h | h := h <;> exact hindf.2 (by rw [h]; rfl)
    exact State.memRead_memWrite_of_no_storage (by simp [hmap])

/-- Settles O21: a read, register by register. -/
theorem fileRegisterReads : Obligations.FileRegisterReads := by
  unfold Obligations.FileRegisterReads
  intro s a
  refine ⟨fun ha => ?status, State.getLsbD_memRead_portA, fun ha i _ => State.getLsbD_memRead_portB ha i,
    State.memRead_pcl_toNat, fun ha => ?pclath, fun ha => ?trisA, fun ha => ?eecon1, State.memRead_trisB,
    fun ha => ?intcon, State.memRead_optionReg, State.memRead_tmr0, State.memRead_fsr, State.memRead_eedata,
    State.memRead_eeadr, fun n => State.memRead_gpr, fun ha => (State.memRead_memWrite_of_no_storage ha).1⟩
  case status => rw [State.memRead_status ha]; exact ⟨rfl, rfl, rfl, rfl, rfl, rfl, rfl⟩
  case pclath => rw [State.memRead_pclath ha, setWidth_five_eight_toNat]
  case trisA => rw [State.memRead_trisA ha, setWidth_five_eight_toNat]
  case eecon1 => rw [State.memRead_eecon1 ha, setWidth_five_eight_toNat]
  case intcon => rw [State.memRead_intcon ha]; exact ⟨rfl, rfl⟩

end Sys2Proof.Proofs

/-! The formats of an instruction word (rules R91 to R98), and the round trip from an instruction to its word and back. -/

namespace Sys2Proof

/-! ## What the decoder reads from each format -/

section
variable (op : BitVec 6) (d : BitVec 1) (f : Designator) (k : Byte)

/-- Rule R98's first selector, `w[13:12]`, is the top of the opcode. -/
@[simp] theorem formByte_group : (formByte op d f).extractLsb' 12 2 = op.extractLsb' 4 2 :=
  (BitVec.extractLsb'_append_eq_of_le (by decide)).trans (BitVec.extractLsb'_append_eq_of_le (by decide))

@[simp] theorem formByte_row : (formByte op d f).extractLsb' 8 4 = op.extractLsb' 0 4 :=
  (BitVec.extractLsb'_append_eq_of_le (by decide)).trans (BitVec.extractLsb'_append_eq_of_le (by decide))

@[simp] theorem getElem_seven_formByte : (formByte op d f)[7] = d[0] := by
  rw [formByte, BitVec.getElem_append, dif_neg (by decide), BitVec.getElem_append, dif_pos (by decide)]

@[simp] theorem fieldF_formByte : fieldF (formByte op d f) = f := BitVec.extractLsb'_append_eq_right

@[simp] theorem destOfBit_bit (d : Dest) : destOfBit d.bit[0] = d := by cases d <;> rfl

@[simp] theorem fieldD_formByte (d : Dest) : fieldD (formByte op d.bit f) = d := by
  rw [fieldD, BitVec.getLsbD_eq_getElem (by decide), getElem_seven_formByte, destOfBit_bit]

@[simp] theorem formLit8_group : (formLit8 op k).extractLsb' 12 2 = op.extractLsb' 4 2 :=
  BitVec.extractLsb'_append_eq_of_le (by decide)

@[simp] theorem formLit8_row : (formLit8 op k).extractLsb' 8 4 = op.extractLsb' 0 4 :=
  BitVec.extractLsb'_append_eq_of_le (by decide)

@[simp] theorem fieldK8_formLit8 : fieldK8 (formLit8 op k) = k := BitVec.extractLsb'_append_eq_right

end

section
variable (op : BitVec 4) (b : BitIndex) (f : Designator)

@[simp] theorem formBit_group : (formBit op b f).extractLsb' 12 2 = op.extractLsb' 2 2 :=
  (BitVec.extractLsb'_append_eq_of_le (by decide)).trans (BitVec.extractLsb'_append_eq_of_le (by decide))

@[simp] theorem formBit_row : (formBit op b f).extractLsb' 10 2 = op.extractLsb' 0 2 :=
  (BitVec.extractLsb'_append_eq_of_le (by decide)).trans (BitVec.extractLsb'_append_eq_of_le (by decide))

@[simp] theorem fieldF_formBit : fieldF (formBit op b f) = f := BitVec.extractLsb'_append_eq_right

@[simp] theorem fieldB_formBit : fieldB (formBit op b f) = b :=
  (BitVec.extractLsb'_append_eq_of_le (by decide)).trans BitVec.extractLsb'_append_eq_right

end

section
variable (op : BitVec 3) (k : BitVec 11)

@[simp] theorem formLit11_group : (formLit11 op k).extractLsb' 12 2 = op.extractLsb' 1 2 :=
  BitVec.extractLsb'_append_eq_of_le (by decide)

@[simp] theorem getElem_eleven_formLit11 : (formLit11 op k)[11] = op[0] := by
  rw [formLit11, BitVec.getElem_append, dif_neg (by decide)]

@[simp] theorem fieldK11_formLit11 : fieldK11 (formLit11 op k) = k := BitVec.extractLsb'_append_eq_right

end

/-! ## The round trip -/

/-- TRIS reads back its operand on 5, 6 and 7, and on no other (rule R102). -/
theorem decode_tris : ∀ f : BitVec 3, 5 ≤ f.toNat → decode (0b00000001100#11 ++ f) = .instr (.tris f) := by decide

/-- Decoding the canonical word of a well-formed instruction gives it back (rule R99). -/
theorem decode_encode {i : Instr} (h : i.wellFormed = true) : decode (encode i) = .instr i := by
  cases i with
  | addwf f d | andwf f d | comf f d | decf f d | decfsz f d | incf f d | incfsz f d | iorwf f d | movf f d | rlf f d
  | rrf f d | subwf f d | swapf f d | xorwf f d => simp [encode, decode, decodeByte]
  | clrf f | movwf f => simp [encode, decode, decodeByte]
  | bcf f b | bsf f b | btfsc f b | btfss f b => simp [encode, decode, decodeBit]
  | addlw k | andlw k | iorlw k | movlw k | retlw k | sublw k | xorlw k => simp [encode, decode, decodeLiteral]
  | call k | goto k => simp [encode, decode]
  | tris f => exact decode_tris f (of_decide_eq_true h)
  | clrw | nop | clrwdt | retfie | ret | sleep | option => rfl

end Sys2Proof

/-! Which words decode to an instruction (rules R97 to R99). -/

namespace Sys2Proof

/-! ## A word from its fields -/

/-- A word is its high bits followed by its low bits. -/
theorem eq_append_fields (m n : Nat) (w : BitVec (m + n)) : w = w.extractLsb' n m ++ w.extractLsb' 0 n := by
  rw [BitVec.extractLsb'_append_extractLsb'_eq_extractLsb' (Nat.zero_add n).symm, BitVec.extractLsb'_eq_self]

theorem exists_eq_append {m n : Nat} (w : BitVec (m + n)) : ∃ (a : BitVec m) (b : BitVec n), w = a ++ b :=
  ⟨_, _, eq_append_fields m n w⟩

/-- Two adjacent selectors make one opcode. -/
theorem opcode_eq {w : ProgWord} {p m n g r : Nat} (hr : (w.extractLsb' p n).toNat = r)
    (hg : (w.extractLsb' (p + n) m).toNat = g) : w.extractLsb' p (m + n) = BitVec.ofNat (m + n) (2 ^ n * g + r) := by
  have hlt : r < 2 ^ n := hr ▸ (w.extractLsb' p n).isLt
  have htoNat : (w.extractLsb' (p + n) m ++ w.extractLsb' p n).toNat = 2 ^ n * g + r := by
    rw [BitVec.toNat_append, hg, hr, ← Nat.shiftLeft_add_eq_or_of_lt hlt, Nat.shiftLeft_eq, Nat.mul_comm]
  rw [← BitVec.extractLsb'_append_extractLsb'_eq_extractLsb' rfl, ← htoNat, BitVec.ofNat_toNat, BitVec.setWidth_eq]

/-- A field of one bit. -/
theorem extractLsb'_one {n p : Nat} {w : BitVec n} {b : Bool} (h : w.getLsbD p = b) :
    w.extractLsb' p 1 = BitVec.ofBool b := by
  subst h
  ext j hj
  obtain rfl : j = 0 := by omega
  simp

theorem bit_fieldD (w : ProgWord) : (fieldD w).bit = w.extractLsb' 7 1 := by
  rw [extractLsb'_one rfl, fieldD]
  cases w.getLsbD 7 <;> rfl

section
variable {w : ProgWord}

theorem eq_formByte {op : BitVec 6} {d : BitVec 1} (hop : w.extractLsb' 8 6 = op) (hd : w.extractLsb' 7 1 = d) :
    w = formByte op d (fieldF w) := by
  have htop : op ++ d = w.extractLsb' 7 7 := by
    rw [← hop, ← hd]
    exact BitVec.extractLsb'_append_extractLsb'_eq_extractLsb' rfl
  rw [formByte, htop]
  exact eq_append_fields 7 7 w

theorem eq_formBit {op : BitVec 4} (hop : w.extractLsb' 10 4 = op) : w = formBit op (fieldB w) (fieldF w) := by
  have htop : op ++ fieldB w = w.extractLsb' 7 7 := by
    rw [← hop]
    exact BitVec.extractLsb'_append_extractLsb'_eq_extractLsb' rfl
  rw [formBit, htop]
  exact eq_append_fields 7 7 w

theorem eq_formLit8 {op : BitVec 6} (hop : w.extractLsb' 8 6 = op) : w = formLit8 op (fieldK8 w) := by
  rw [← hop]
  exact eq_append_fields 6 8 w

theorem eq_formLit11 {op : BitVec 3} (hop : w.extractLsb' 11 3 = op) : w = formLit11 op (fieldK11 w) := by
  rw [← hop]
  exact eq_append_fields 3 11 w

end

/-! ## Don't-care positions (rule R97) -/

/-- The word agrees with the instruction's canonical word outside its don't-care positions. -/
def Instr.AgreesWith (i : Instr) (w : ProgWord) : Prop := w &&& careMask i = encode i

/-- Without a don't-care position only the canonical word agrees. -/
theorem Instr.agreesWith_iff_eq {i : Instr} (hm : careMask i = BitVec.allOnes 14) {w : ProgWord} :
    i.AgreesWith w ↔ w = encode i := by
  rw [Instr.AgreesWith, hm, BitVec.and_allOnes]

theorem append_eq_append_iff {m n : Nat} {a c : BitVec m} {b d : BitVec n} : a ++ b = c ++ d ↔ a = c ∧ b = d := by
  refine ⟨fun h => ⟨?high, ?low⟩, fun ⟨ha, hb⟩ => by rw [ha, hb]⟩
  case high => simpa only [BitVec.extractLsb'_append_eq_left] using congrArg (BitVec.extractLsb' n m) h
  case low => simpa only [BitVec.extractLsb'_append_eq_right] using congrArg (BitVec.extractLsb' 0 n) h

/-- A word agrees with `u` above its low field iff it is `u` followed by some low field. -/
theorem and_mask_low_iff {m n : Nat} {u : BitVec m} {w : BitVec (m + n)} :
    w &&& (BitVec.allOnes m ++ 0#n) = u ++ 0#n ↔ ∃ x : BitVec n, w = u ++ x := by
  obtain ⟨a, b, rfl⟩ := exists_eq_append w
  simp [BitVec.and_append, append_eq_append_iff]

/-- A word agrees with `u` and `y` outside its middle field iff it is `u`, some middle field, `y`. -/
theorem and_mask_middle_iff {m n p : Nat} {u : BitVec m} {y : BitVec p} {w : BitVec (m + n + p)} :
    w &&& (BitVec.allOnes m ++ 0#n ++ BitVec.allOnes p) = u ++ 0#n ++ y ↔ ∃ x : BitVec n, w = u ++ x ++ y := by
  obtain ⟨a, b, rfl⟩ := exists_eq_append w
  simp [BitVec.and_append, append_eq_append_iff, and_mask_low_iff]

theorem agreesWith_clrw {w : ProgWord} : Instr.clrw.AgreesWith w ↔ ∃ x : BitVec 7, w = 0b0000010#7 ++ x :=
  and_mask_low_iff (m := 7) (n := 7) (u := 0b0000010#7)

theorem agreesWith_nop {w : ProgWord} :
    Instr.nop.AgreesWith w ↔ ∃ x : BitVec 2, w = 0b0000000#7 ++ x ++ 0b00000#5 :=
  and_mask_middle_iff (m := 7) (n := 2) (p := 5) (u := 0b0000000#7) (y := 0b00000#5)

/-- A literal instruction with bits 9:8 free (MOVLW, RETLW). -/
theorem and_lit8_two_free {op : BitVec 6} {u : BitVec 4} (hop : op = u ++ 0#2) {k : Byte} {w : ProgWord} :
    w &&& 0x3CFF#14 = formLit8 op k ↔ ∃ x : BitVec 2, w = u ++ x ++ k :=
  hop ▸ and_mask_middle_iff (m := 4) (n := 2) (p := 8)

/-- A literal instruction with bit 8 free (ADDLW, SUBLW). -/
theorem and_lit8_one_free {op : BitVec 6} {u : BitVec 5} (hop : op = u ++ 0#1) {k : Byte} {w : ProgWord} :
    w &&& 0x3EFF#14 = formLit8 op k ↔ ∃ x : BitVec 1, w = u ++ x ++ k :=
  hop ▸ and_mask_middle_iff (m := 5) (n := 1) (p := 8)

theorem agreesWith_movlw {w : ProgWord} {k : Byte} :
    (Instr.movlw k).AgreesWith w ↔ ∃ x : BitVec 2, w = 0b1100#4 ++ x ++ k :=
  and_lit8_two_free (by decide)

theorem agreesWith_retlw {w : ProgWord} {k : Byte} :
    (Instr.retlw k).AgreesWith w ↔ ∃ x : BitVec 2, w = 0b1101#4 ++ x ++ k :=
  and_lit8_two_free (by decide)

theorem agreesWith_addlw {w : ProgWord} {k : Byte} :
    (Instr.addlw k).AgreesWith w ↔ ∃ x : BitVec 1, w = 0b11111#5 ++ x ++ k :=
  and_lit8_one_free (by decide)

theorem agreesWith_sublw {w : ProgWord} {k : Byte} :
    (Instr.sublw k).AgreesWith w ↔ ∃ x : BitVec 1, w = 0b11110#5 ++ x ++ k :=
  and_lit8_one_free (by decide)

/-! ## A word with anything in its don't-care positions decodes to the instruction -/

theorem decode_clrw (x : BitVec 7) : decode (0b0000010#7 ++ x) = .instr .clrw := by
  change decode (formByte 0b000001#6 0#1 x) = _
  simp [decode, decodeByte]

theorem decode_nop : ∀ x : BitVec 2, decode (0b0000000#7 ++ x ++ 0b00000#5) = .instr .nop := by decide

theorem decode_lit8_two_free (x : BitVec 2) (k : Byte) :
    decode (0b1100#4 ++ x ++ k) = .instr (.movlw k) ∧ decode (0b1101#4 ++ x ++ k) = .instr (.retlw k) := by
  change decode (formLit8 (0b1100#4 ++ x) k) = _ ∧ decode (formLit8 (0b1101#4 ++ x) k) = _
  have hx : x = 0#2 ∨ x = 1#2 ∨ x = 2#2 ∨ x = 3#2 := by revert x; decide
  obtain rfl | rfl | rfl | rfl := hx <;> simp [decode, decodeLiteral]

theorem decode_lit8_one_free (x : BitVec 1) (k : Byte) :
    decode (0b11111#5 ++ x ++ k) = .instr (.addlw k) ∧ decode (0b11110#5 ++ x ++ k) = .instr (.sublw k) := by
  change decode (formLit8 (0b11111#5 ++ x) k) = _ ∧ decode (formLit8 (0b11110#5 ++ x) k) = _
  have hx : x = 0#1 ∨ x = 1#1 := by revert x; decide
  obtain rfl | rfl := hx <;> simp [decode, decodeLiteral]

/-- A word that agrees with a well-formed instruction outside its don't-care positions decodes to it. -/
theorem decode_of_agreesWith {i : Instr} {w : ProgWord} (hi : i.wellFormed = true) (h : i.AgreesWith w) :
    decode w = .instr i := by
  by_cases hm : careMask i = BitVec.allOnes 14
  · rw [(Instr.agreesWith_iff_eq hm).1 h, decode_encode hi]
  · cases i with
    | clrw => obtain ⟨x, rfl⟩ := agreesWith_clrw.1 h; exact decode_clrw x
    | nop => obtain ⟨x, rfl⟩ := agreesWith_nop.1 h; exact decode_nop x
    | movlw k => obtain ⟨x, rfl⟩ := agreesWith_movlw.1 h; exact (decode_lit8_two_free x k).1
    | retlw k => obtain ⟨x, rfl⟩ := agreesWith_retlw.1 h; exact (decode_lit8_two_free x k).2
    | addlw k => obtain ⟨x, rfl⟩ := agreesWith_addlw.1 h; exact (decode_lit8_one_free x k).1
    | sublw k => obtain ⟨x, rfl⟩ := agreesWith_sublw.1 h; exact (decode_lit8_one_free x k).2
    | _ => exact absurd rfl hm

/-! ## The inversion of the decoder, group by group (rule R98) -/

section
variable {w : ProgWord} {i : Instr}

theorem eq_lit8_two_free {op : BitVec 6} {u : BitVec 4} (hop : w.extractLsb' 8 6 = op) (hu : op.extractLsb' 2 4 = u) :
    ∃ x : BitVec 2, w = u ++ x ++ fieldK8 w := by
  refine ⟨op.extractLsb' 0 2, ?_⟩
  rw [← hu, ← eq_append_fields 4 2 op]
  exact eq_formLit8 hop

theorem eq_lit8_one_free {op : BitVec 6} {u : BitVec 5} (hop : w.extractLsb' 8 6 = op) (hu : op.extractLsb' 1 5 = u) :
    ∃ x : BitVec 1, w = u ++ x ++ fieldK8 w := by
  refine ⟨op.extractLsb' 0 1, ?_⟩
  rw [← hu, ← eq_append_fields 5 1 op]
  exact eq_formLit8 hop

theorem agreesWith_of_decodeFixed (hop : w.extractLsb' 8 6 = 0#6) (hd : w.extractLsb' 7 1 = 0#1)
    (h : decodeFixed w = .instr i) : i.AgreesWith w := by
  have hword {n : Nat} (hf : (fieldF w).toNat = n) : w = formByte 0#6 0#1 (BitVec.ofNat 7 n) := by
    rw [← hf, BitVec.ofNat_toNat, BitVec.setWidth_eq]
    exact eq_formByte hop hd
  unfold decodeFixed at h
  split at h <;> cases h <;> obtain rfl := hword ‹_› <;> rfl

/-- Row 0 of the byte-oriented group: MOVWF and the fixed encodings. -/
theorem agreesWith_of_decodeByte_zero (hg : (w.extractLsb' 12 2).toNat = 0) (hn : (w.extractLsb' 8 4).toNat = 0)
    (h : decodeByte w = .instr i) : i.AgreesWith w := by
  rw [decodeByte, hn] at h
  cases h7 : w.getLsbD 7 with
  | true =>
    rw [h7] at h
    cases h
    exact (Instr.agreesWith_iff_eq rfl).2 (eq_formByte (opcode_eq hn hg) (extractLsb'_one h7))
  | false =>
    rw [h7] at h
    exact agreesWith_of_decodeFixed (opcode_eq hn hg) (extractLsb'_one h7) h

/-- Row 1 of the byte-oriented group: CLRF and CLRW. -/
theorem agreesWith_of_decodeByte_one (hg : (w.extractLsb' 12 2).toNat = 0) (hn : (w.extractLsb' 8 4).toNat = 1)
    (h : decodeByte w = .instr i) : i.AgreesWith w := by
  have hop := opcode_eq hn hg
  rw [decodeByte, hn] at h
  cases h7 : w.getLsbD 7 with
  | true =>
    rw [h7] at h
    cases h
    exact (Instr.agreesWith_iff_eq rfl).2 (eq_formByte hop (extractLsb'_one h7))
  | false =>
    rw [h7] at h
    cases h
    have hword := eq_formByte hop (extractLsb'_one h7)
    exact agreesWith_clrw.2 ⟨fieldF w, by simpa [formByte] using hword⟩

theorem agreesWith_of_decodeByte (hg : (w.extractLsb' 12 2).toNat = 0) (h : decodeByte w = .instr i) :
    i.AgreesWith w := by
  obtain hn | hn | h2 : (w.extractLsb' 8 4).toNat = 0 ∨ (w.extractLsb' 8 4).toNat = 1 ∨
      2 ≤ (w.extractLsb' 8 4).toNat := by omega
  · exact agreesWith_of_decodeByte_zero hg hn h
  · exact agreesWith_of_decodeByte_one hg hn h
  · have hrow := (w.extractLsb' 8 4).isLt
    rw [decodeByte] at h
    interval_cases hn : (w.extractLsb' 8 4).toNat <;> cases h <;>
      exact (Instr.agreesWith_iff_eq rfl).2 (eq_formByte (opcode_eq hn hg) (bit_fieldD w).symm)

theorem agreesWith_of_decodeBit (hg : (w.extractLsb' 12 2).toNat = 1) (h : decodeBit w = .instr i) :
    i.AgreesWith w := by
  have hrow := (w.extractLsb' 10 2).isLt
  rw [decodeBit] at h
  interval_cases hn : (w.extractLsb' 10 2).toNat <;> cases h <;>
    exact (Instr.agreesWith_iff_eq rfl).2 (eq_formBit (opcode_eq hn hg))

theorem agreesWith_of_decodeLiteral (hg : (w.extractLsb' 12 2).toNat = 3) (h : decodeLiteral w = .instr i) :
    i.AgreesWith w := by
  have hrow := (w.extractLsb' 8 4).isLt
  rw [decodeLiteral] at h
  have hrows (n : Nat) : n < 4 ∨ (4 ≤ n ∧ n < 8) ∨ (8 ≤ n ∧ n < 12) ∨ (12 ≤ n ∧ n < 14) ∨ 14 ≤ n := by omega
  obtain hlt | ⟨hle, hlt⟩ | ⟨hle, hlt⟩ | ⟨hle, hlt⟩ | hle := hrows (w.extractLsb' 8 4).toNat
  · interval_cases hn : (w.extractLsb' 8 4).toNat <;> cases h <;>
      exact agreesWith_movlw.2 (eq_lit8_two_free (opcode_eq hn hg) rfl)
  · interval_cases hn : (w.extractLsb' 8 4).toNat <;> cases h <;>
      exact agreesWith_retlw.2 (eq_lit8_two_free (opcode_eq hn hg) rfl)
  · interval_cases hn : (w.extractLsb' 8 4).toNat <;> cases h <;>
      exact (Instr.agreesWith_iff_eq rfl).2 (eq_formLit8 (opcode_eq hn hg))
  · interval_cases hn : (w.extractLsb' 8 4).toNat <;> cases h <;>
      exact agreesWith_sublw.2 (eq_lit8_one_free (opcode_eq hn hg) rfl)
  · interval_cases hn : (w.extractLsb' 8 4).toNat <;> cases h <;>
      exact agreesWith_addlw.2 (eq_lit8_one_free (opcode_eq hn hg) rfl)

/-- CALL and GOTO, by bit 11. -/
theorem jumpOpcode_eq (hg : (w.extractLsb' 12 2).toNat = 2) {b : Bool} (h11 : w.getLsbD 11 = b) :
    w.extractLsb' 11 3 = 0b10#2 ++ BitVec.ofBool b := by
  have hgroup : w.extractLsb' 12 2 = 0b10#2 := BitVec.eq_of_toNat_eq hg
  rw [← extractLsb'_one h11, ← hgroup]
  exact (BitVec.extractLsb'_append_extractLsb'_eq_extractLsb' (start₁ := 11) (len₁ := 1) (len₂ := 2) rfl).symm

/-- Whatever the decoder answers, the word agrees with it outside the don't-care positions. -/
theorem agreesWith_of_decode (h : decode w = .instr i) : i.AgreesWith w := by
  have hgroup := (w.extractLsb' 12 2).isLt
  rw [decode] at h
  interval_cases hg : (w.extractLsb' 12 2).toNat
  · exact agreesWith_of_decodeByte hg h
  · exact agreesWith_of_decodeBit hg h
  · cases h11 : w.getLsbD 11 <;> rw [h11] at h <;> cases h <;>
      exact (Instr.agreesWith_iff_eq rfl).2 (eq_formLit11 (jumpOpcode_eq hg h11))
  · exact agreesWith_of_decodeLiteral hg h

end

/-- A word decodes to an instruction exactly when it agrees with it outside the don't-care positions. -/
theorem decode_eq_instr_iff {w : ProgWord} {i : Instr} (hi : i.wellFormed = true) :
    decode w = .instr i ↔ i.AgreesWith w :=
  ⟨agreesWith_of_decode, decode_of_agreesWith hi⟩

end Sys2Proof

/-! Which words the decoder rejects (rules R98, R101). -/

namespace Sys2Proof

/-! ## The unassigned words, group by group (rule R98) -/

section
variable {w u : ProgWord}

/-- The designators that name a fixed encoding among the words 0x0000 to 0x007F (rule R99). -/
def fixedDesignators : List Nat := [0x00, 0x08, 0x09, 0x20, 0x40, 0x60, 0x62, 0x63, 0x64, 0x65, 0x66, 0x67]

theorem decodeFixed_eq_unassigned_iff :
    decodeFixed w = .unassigned u ↔ (fieldF w).toNat ∉ fixedDesignators ∧ w = u := by
  unfold decodeFixed fixedDesignators
  split <;> simp_all

theorem decodeByte_eq_unassigned_iff : decodeByte w = .unassigned u ↔
    (w.extractLsb' 8 4).toNat = 0 ∧ w.getLsbD 7 = false ∧ decodeFixed w = .unassigned u := by
  have hrow := (w.extractLsb' 8 4).isLt
  rw [decodeByte]
  interval_cases (w.extractLsb' 8 4).toNat <;> cases w.getLsbD 7 <;> simp

theorem decodeBit_ne_unassigned : decodeBit w ≠ .unassigned u := by
  unfold decodeBit
  split <;> exact DecodeResult.noConfusion

theorem decodeLiteral_eq_unassigned_iff :
    decodeLiteral w = .unassigned u ↔ (w.extractLsb' 8 4).toNat = 0xB ∧ w = u := by
  have hrow := (w.extractLsb' 8 4).isLt
  rw [decodeLiteral]
  interval_cases (w.extractLsb' 8 4).toNat <;> simp

theorem decode_eq_unassigned_iff : decode w = .unassigned u ↔
    ((w.extractLsb' 12 2).toNat = 0 ∧ decodeByte w = .unassigned u) ∨
      ((w.extractLsb' 12 2).toNat = 3 ∧ decodeLiteral w = .unassigned u) := by
  have hgroup := (w.extractLsb' 12 2).isLt
  rw [decode]
  interval_cases (w.extractLsb' 12 2).toNat
  · simp
  · simp [decodeBit_ne_unassigned]
  · cases w.getLsbD 11 <;> simp
  · simp

/-- The words below 0x0080, by what the decoder reads of them. -/
theorem fixed_iff_toNat_lt (w : ProgWord) :
    ((w.extractLsb' 12 2).toNat = 0 ∧ (w.extractLsb' 8 4).toNat = 0 ∧ w.getLsbD 7 = false) ↔ w.toNat < 0x0080 := by
  have hlt := w.isLt
  rw [BitVec.getLsbD, Nat.testBit_eq_decide_div_mod_eq, decide_eq_false_iff_not]
  simp only [BitVec.extractLsb'_toNat, Nat.shiftRight_eq_div_pow]
  omega

/-- The words 0x3B00 to 0x3BFF, by what the decoder reads of them. -/
theorem unused_literal_iff_toNat (w : ProgWord) :
    ((w.extractLsb' 12 2).toNat = 3 ∧ (w.extractLsb' 8 4).toNat = 0xB) ↔ w.toNat / 0x0100 = 0x3B := by
  have hlt := w.isLt
  simp only [BitVec.extractLsb'_toNat, Nat.shiftRight_eq_div_pow]
  omega

theorem fieldF_toNat (w : ProgWord) : (fieldF w).toNat = w.toNat % 0x0080 := by
  rw [fieldF, BitVec.extractLsb'_toNat, Nat.shiftRight_zero]

/-- The rejected words by their numbers: those below 0x0080 without a fixed encoding, and 0x3B00 to 0x3BFF. -/
theorem decode_eq_unassigned_iff_toNat : decode w = .unassigned u ↔
    ((w.toNat < 0x0080 ∧ w.toNat % 0x0080 ∉ fixedDesignators) ∨ w.toNat / 0x0100 = 0x3B) ∧ w = u := by
  rw [decode_eq_unassigned_iff, decodeByte_eq_unassigned_iff, decodeFixed_eq_unassigned_iff,
    decodeLiteral_eq_unassigned_iff, ← fixed_iff_toNat_lt, ← unused_literal_iff_toNat, fieldF_toNat]
  tauto

end

end Sys2Proof

/-! A boundary that comes to the execution of an instruction (00_scope.md section 6.5). -/

namespace Sys2Proof.Machine

/-- The fetch of an assigned word is the execution of its instruction (rules R60, R98). -/
theorem State.runFetched_instr {s : State} {w : ProgWord} {i : Instr} (h : s.progRead s.pc = some w)
    (hd : decode w = .instr i) : s.runFetched = exec i s := by
  simp only [State.runFetched, h, hd]

/-- A step of an awake core with no reset, time-out or unheld request executes the decoded instruction. -/
theorem step_eq_exec {s : State} {w : ProgWord} {i : Instr} (he : s.moved.eventOutcome s.nextMove.event = none)
    (hs : s.sleeping = false) (hr : s.moved.request = false ∨ s.afterWake = true) (hw : s.progRead s.pc = some w)
    (hd : decode w = .instr i) : step s = exec i s.moved.endWake := by
  have hheld : (s.moved.request && !s.moved.afterWake) = false := by
    obtain hr | hr := hr <;> simp [hr]
  rw [step_eq_runFetched he hs hheld]
  exact State.runFetched_instr hw hd

end Sys2Proof.Machine

/-! The statements on the encoding (30_encoding.md), and the step of a decoded instruction, settled. -/

namespace Sys2Proof.Proofs

open Sys2Proof Sys2Proof.Machine

/-- Settles O1, constructor by constructor: the decoder reads each format's fields back. -/
theorem decodeInvertsEncode : Obligations.DecodeInvertsEncode := by
  unfold Obligations.DecodeInvertsEncode
  exact fun _ => decode_encode

/-- Settles O2: one way from the round trip and the don't-care forms, the other by the inversion of the decoder. -/
theorem dontCareBitsNeverMatter : Obligations.DontCareBitsNeverMatter := by
  unfold Obligations.DontCareBitsNeverMatter
  exact ⟨fun _ _ => decode_eq_instr_iff, decode_clrw, decode_nop, decode_lit8_two_free, decode_lit8_one_free, rfl, rfl,
    fun _ => ⟨rfl, rfl, rfl, rfl⟩⟩

/-- Settles O3: the decoder rejects in two places, and what it reads there is the word's number. -/
theorem unassignedWordsAreTheListedOnes : Obligations.UnassignedWordsAreTheListedOnes := by
  unfold Obligations.UnassignedWordsAreTheListedOnes
  refine ⟨fun w u h => (decode_eq_unassigned_iff_toNat.1 h).2.symm, fun w => ?_⟩
  rw [decode_eq_unassigned_iff_toNat]
  simp only [fixedDesignators, List.mem_cons, List.not_mem_nil, and_true, or_false]
  omega

/-- Settles O4, by evaluation of the decoder. -/
theorem specWordsDecode : Obligations.SpecWordsDecode := by
  unfold Obligations.SpecWordsDecode
  decide

/-- Settles O5: the boundary comes to a fetch, and a quiet environment's move is none. -/
theorem stepRunsTheDecodedInstruction : Obligations.StepRunsTheDecodedInstruction := by
  unfold Obligations.StepRunsTheDecodedInstruction
  refine ⟨fun _ _ _ => step_eq_exec, fun s w i henv hs hr hw hd => ?_⟩
  have hmoved : s.moved = s := State.moved_of_env_nil henv
  have hquiet : s.moved.eventOutcome s.nextMove.event = none := by rw [State.nextMove, henv]; rfl
  rw [step_eq_exec hquiet hs (by rwa [hmoved]) hw hd, hmoved]

end Sys2Proof.Proofs

/-! The frame of an instruction that completes: which fields it can change (rules R39, R67, R71, R120, R180). -/

namespace Sys2Proof.Machine

/-- A skip, taken or not, touches the program counter and the cycles only (rule R27). -/
theorem State.skipIf_eq (s : State) (c : Bool) :
    s.skipIf c =
      { s with pc := if c then s.pc + 1#13 else s.pc, cycles := if c then s.cycles + 1 else s.cycles } := by
  cases c <;> rfl

/-- TO and PD lie below bits 7:5 of STATUS. -/
theorem State.setTOPD_bankBits (s : State) (timeOut powerDown : Bool) :
    (s.setTOPD timeOut powerDown).status.extractLsb' 5 3 = s.status.extractLsb' 5 3 := by
  apply extract_hi3_congr
  intro i h5 h8
  have hne : i ≠ 3 ∧ i ≠ 4 := by omega
  simp [hne]

section
variable {i : Instr} {s t : State}

/-- PCLATH, FSR and bits 7:5 of STATUS change only when they are written. -/
theorem exec_keeps_addressing (h : exec i s = .next t) :
    (s.written i ≠ some .pclath → t.pclath = s.pclath) ∧ (s.written i ≠ some .fsr → t.fsr = s.fsr) ∧
    (s.written i ≠ some .status → t.status.extractLsb' 5 3 = s.status.extractLsb' 5 3) := by
  cases exec_cases h with
  | result c hd =>
    simp only [State.skipIf_eq, hd.pclath, hd.fsr, hd.bankBits]
    exact ⟨fun hw => if_neg hw, fun hw => if_neg hw, fun hw => by rw [if_neg hw]⟩
  | clrwdt => exact ⟨fun _ => rfl, fun _ => rfl, fun _ => State.setTOPD_bankBits _ true true⟩
  | sleep => exact ⟨fun _ => rfl, fun _ => rfl, fun _ => State.setTOPD_bankBits _ true false⟩
  | nop | btfsc | btfss | call | goto | ret | retlw | retfie | option | trisA | trisB => simp [State.skipIf_eq]

/-- INTCON, OPTION_REG and the direction registers change when they are written, or by RETFIE, OPTION and TRIS. -/
theorem exec_keeps_control (h : exec i s = .next t) :
    (s.written i ≠ some .intcon → i ≠ .retfie → t.intcon = s.intcon) ∧
    (s.written i ≠ some .optionReg → i ≠ .option → t.optionReg = s.optionReg) ∧
    (s.written i ≠ some .trisA → i ≠ .tris 5#3 → t.trisA = s.trisA) ∧
    (s.written i ≠ some .trisB → i ≠ .tris 6#3 → t.trisB = s.trisB) := by
  cases exec_cases h with
  | result c hd =>
    simp only [State.skipIf_eq, hd.intcon, hd.optionReg, hd.trisA, hd.trisB]
    exact ⟨fun hw _ => if_neg hw, fun hw _ => if_neg hw, fun hw _ => if_neg hw, fun hw _ => if_neg hw⟩
  | retfie => exact ⟨fun _ hi => absurd rfl hi, fun _ _ => rfl, fun _ _ => rfl, fun _ _ => rfl⟩
  | option => exact ⟨fun _ _ => rfl, fun _ hi => absurd rfl hi, fun _ _ => rfl, fun _ _ => rfl⟩
  | trisA hf => exact ⟨fun _ _ => rfl, fun _ _ => rfl, fun _ hi => absurd (congrArg _ hf) hi, fun _ _ => rfl⟩
  | trisB hf => exact ⟨fun _ _ => rfl, fun _ _ => rfl, fun _ _ => rfl, fun _ hi => absurd (congrArg _ hf) hi⟩
  | nop | btfsc | btfss | call | goto | ret | retlw | clrwdt | sleep => simp [State.skipIf_eq]

/-- The port latches and the data EEPROM's registers change only when they are written. -/
theorem exec_keeps_peripherals (h : exec i s = .next t) :
    (s.written i ≠ some .portA → t.latchA = s.latchA) ∧ (s.written i ≠ some .portB → t.latchB = s.latchB) ∧
    (s.written i ≠ some .eedata → t.eedata = s.eedata) ∧ (s.written i ≠ some .eeadr → t.eeadr = s.eeadr) ∧
    (s.written i ≠ some .eecon1 → t.eecon1 = s.eecon1) := by
  cases exec_cases h with
  | result c hd =>
    simp only [State.skipIf_eq, hd.latchA, hd.latchB, hd.eedata, hd.eeadr, hd.eecon1]
    exact ⟨fun hw => if_neg hw, fun hw => if_neg hw, fun hw => if_neg hw, fun hw => if_neg hw, fun hw => if_neg hw⟩
  | nop | btfsc | btfss | call | goto | ret | retlw | retfie | clrwdt | sleep | option | trisA | trisB =>
    simp [State.skipIf_eq]

/-- TMR0 changes when it is written, the prescaler's count with it, and both counts by CLRWDT and SLEEP (rules R41,
R67). -/
theorem exec_keeps_timers (h : exec i s = .next t) :
    (s.written i ≠ some .tmr0 → t.tmr0 = s.tmr0) ∧
    (s.written i ≠ some .tmr0 → i ≠ .clrwdt → i ≠ .sleep → t.psc = s.psc) ∧
    (i ≠ .clrwdt → i ≠ .sleep → t.wdt = s.wdt) := by
  cases exec_cases h with
  | result c hd =>
    simp only [State.skipIf_eq, hd.tmr0, hd.psc, hd.watchdog]
    exact ⟨fun hw => if_neg hw, fun hw _ _ => if_neg fun hand => hw hand.1, fun _ _ => trivial⟩
  | clrwdt => exact ⟨fun _ => rfl, fun _ hi => absurd rfl hi, fun hi => absurd rfl hi⟩
  | sleep => exact ⟨fun _ => rfl, fun _ _ hi => absurd rfl hi, fun _ hi => absurd rfl hi⟩
  | nop | btfsc | btfss | call | goto | ret | retlw | retfie | option | trisA | trisB => simp [State.skipIf_eq]

/-- A general purpose register reads as before unless it is the one written (rule R71). -/
theorem exec_keeps_gpr (h : exec i s = .next t) (n : Nat) (hw : s.written i ≠ some (.gpr n)) :
    Memory.read t.gpr n = Memory.read s.gpr n := by
  cases exec_cases h with
  | result c hd => rw [State.skipIf_eq]; exact (hd.gpr n).trans (if_neg hw)
  | nop | btfsc | btfss | call | goto | ret | retlw | retfie | clrwdt | sleep | option | trisA | trisB =>
    simp [State.skipIf_eq]

/-- The return stack stays for every instruction that neither pushes nor pops (rule R30). -/
theorem exec_keeps_stack (h : exec i s = .next t) (hi : i.usesStack = false) :
    t.stack = s.stack ∧ t.stackWritten = s.stackWritten ∧ t.sp = s.sp := by
  cases exec_cases h with
  | result c hd => rw [State.skipIf_eq]; exact hd.stack
  | call | ret | retlw | retfie => cases hi
  | nop | btfsc | btfss | goto | clrwdt | sleep | option | trisA | trisB => simp [State.skipIf_eq]

/-- Only SLEEP puts the core to sleep, and no instruction touches the environment's side, the device variant or the
hold after a wake-up (rules R44, R66, R68). -/
theorem exec_keeps_environment (h : exec i s = .next t) :
    (i ≠ .sleep → t.sleeping = s.sleeping) ∧
    t.extA = s.extA ∧ t.extB = s.extB ∧ t.loadA = s.loadA ∧ t.loadB = s.loadB ∧ t.params = s.params ∧
    t.env = s.env ∧ t.afterWake = s.afterWake := by
  cases exec_cases h with
  | result c hd =>
    obtain ⟨hextA, hextB, hloadA, hloadB⟩ := hd.pins
    rw [State.skipIf_eq]
    exact ⟨fun _ => hd.sleeping, hextA, hextB, hloadA, hloadB, hd.program.2, hd.model⟩
  | nop | btfsc | btfss | call | goto | ret | retlw | retfie | clrwdt | sleep | option | trisA | trisB =>
    simp [State.skipIf_eq]

end

end Sys2Proof.Machine

/-! The helpers of the byte-oriented operations as arithmetic on numbers (rules R134, R135, R137, R139). -/

namespace Sys2Proof.Machine

/-! ## Addition and subtraction -/

/-- The top bit of a word says whether the number reaches half its range. -/
theorem getLsbD_top {n : Nat} (x : BitVec (n + 1)) : x.getLsbD n = decide (2 ^ n ≤ x.toNat) :=
  BitVec.msb_eq_decide x

/-- A byte is zero when its number is. -/
theorem beq_zero (v : Byte) : (v == 0#8) = decide (v.toNat = 0) :=
  decide_eq_decide.2 BitVec.toNat_inj.symm

theorem sum9_toNat (a b : Byte) : (sum9 a b).toNat = a.toNat + b.toNat := by
  simp only [sum9, BitVec.toNat_add, BitVec.toNat_setWidth]
  omega

theorem nibbleSum5_toNat (a b : Byte) : (nibbleSum5 a b).toNat = a.toNat % 16 + b.toNat % 16 := by
  simp only [nibbleSum5, BitVec.toNat_add, BitVec.toNat_setWidth, BitVec.extractLsb'_toNat, Nat.shiftRight_zero]
  omega

/-- The nine-bit difference is 256 more than `a - b`: bit 8 says that there is no borrow. -/
theorem dif9_toNat (a b : Byte) : (dif9 a b).toNat = a.toNat + 256 - b.toNat := by
  simp only [dif9, BitVec.toNat_add, BitVec.toNat_setWidth, BitVec.toNat_not, BitVec.toNat_ofNat]
  omega

/-- The five-bit difference of the low nibbles likewise: bit 4 says that there is no borrow. -/
theorem nibbleDif5_toNat (a b : Byte) : (nibbleSum5 a (~~~b) + 1#5).toNat = a.toNat % 16 + 16 - b.toNat % 16 := by
  rw [BitVec.toNat_add, nibbleSum5_toNat, BitVec.toNat_not, BitVec.toNat_ofNat]
  omega

theorem add8_flags (a b : Byte) :
    (add8 a b).flags = { c := some (256 ≤ a.toNat + b.toNat), dc := some (16 ≤ a.toNat % 16 + b.toNat % 16),
                         z := some ((a.toNat + b.toNat) % 256 = 0) } := by
  have hc : (sum9 a b).getLsbD 8 = decide (256 ≤ a.toNat + b.toNat) := by rw [getLsbD_top, sum9_toNat]; rfl
  have hdc : (nibbleSum5 a b).getLsbD 4 = decide (16 ≤ a.toNat % 16 + b.toNat % 16) := by
    rw [getLsbD_top, nibbleSum5_toNat]; rfl
  have hz : ((add8 a b).value == 0#8) = decide ((a.toNat + b.toNat) % 256 = 0) := by rw [beq_zero, add8_value_toNat]
  rw [← hc, ← hdc, ← hz]
  rfl

theorem sub8_value_toNat (a b : Byte) : (sub8 a b).value.toNat = (a.toNat + 256 - b.toNat) % 256 := by
  rw [← dif9_toNat]
  exact BitVec.extractLsb'_toNat 0 8 (dif9 a b)

theorem sub8_flags (a b : Byte) :
    (sub8 a b).flags = { c := some (b.toNat ≤ a.toNat), dc := some (b.toNat % 16 ≤ a.toNat % 16),
                         z := some (a.toNat = b.toNat) } := by
  have hc : (dif9 a b).getLsbD 8 = decide (b.toNat ≤ a.toNat) := by
    rw [getLsbD_top, dif9_toNat, decide_eq_decide]; omega
  have hdc : (nibbleSum5 a (~~~b) + 1#5).getLsbD 4 = decide (b.toNat % 16 ≤ a.toNat % 16) := by
    rw [getLsbD_top, nibbleDif5_toNat, decide_eq_decide]; omega
  have hz : ((sub8 a b).value == 0#8) = decide (a.toNat = b.toNat) := by
    rw [beq_zero, sub8_value_toNat, decide_eq_decide]; omega
  rw [← hc, ← hdc, ← hz]
  rfl

/-- A byte is known by its number. -/
theorem eq_ofNat_of_toNat {v : Byte} {n : Nat} (h : v.toNat = n % 256) : v = BitVec.ofNat 8 n :=
  BitVec.eq_of_toNat_eq (h.trans (BitVec.toNat_ofNat n 8).symm)

/-! ## Increment and decrement -/

theorem add_one_eq_ofNat (v : Byte) : v + 1#8 = BitVec.ofNat 8 (v.toNat + 1) :=
  eq_ofNat_of_toNat (BitVec.toNat_add v 1#8)

theorem sub_one_eq_ofNat (v : Byte) : v - 1#8 = BitVec.ofNat 8 (v.toNat + 255) :=
  eq_ofNat_of_toNat ((BitVec.toNat_sub v 1#8).trans (by simp [Nat.add_comm]))

theorem add_one_beq_zero (v : Byte) : (v + 1#8 == 0#8) = decide (v.toNat = 255) := by
  rw [beq_zero, add_one_eq_ofNat, BitVec.toNat_ofNat, decide_eq_decide]
  omega

theorem sub_one_beq_zero (v : Byte) : (v - 1#8 == 0#8) = decide (v.toNat = 1) := by
  rw [beq_zero, sub_one_eq_ofNat, BitVec.toNat_ofNat, decide_eq_decide]
  omega

/-! ## Nibbles and rotations -/

/-- Two fields side by side as one number. -/
theorem toNat_append_eq {m n : Nat} (x : BitVec m) (y : BitVec n) :
    (x ++ y).toNat = x.toNat * 2 ^ n + y.toNat := by
  rw [BitVec.toNat_append, ← Nat.shiftLeft_add_eq_or_of_lt y.isLt, Nat.shiftLeft_eq]

theorem swapNibbles_eq_ofNat (v : Byte) : swapNibbles v = BitVec.ofNat 8 (v.toNat % 16 * 16 + v.toNat / 16) := by
  have hlow : (v.extractLsb' 4 4).toNat = v.toNat / 16 := by
    rw [BitVec.extractLsb'_toNat, Nat.shiftRight_eq_div_pow]; omega
  apply eq_ofNat_of_toNat
  rw [swapNibbles, toNat_append_eq, hlow, BitVec.extractLsb'_toNat, Nat.shiftRight_zero]
  omega

/-- The nine bits `C || f` as a number: doubled, the top bit coming in at the bottom (rule R134). -/
theorem rotateLeft_toNat (c : Bool) (v : Byte) :
    (rotateLeft c v).value.toNat + 256 * (v.getLsbD 7).toNat = 2 * v.toNat + c.toNat := by
  have hvalue : (rotateLeft c v).value.toNat = v.toNat % 128 * 2 + c.toNat := by
    rw [rotateLeft, toNat_append_eq, BitVec.extractLsb'_toNat, BitVec.toNat_ofBool, Nat.shiftRight_zero]
    omega
  rw [hvalue, address_bank]
  by_cases h : 128 ≤ v.toNat <;> simp only [h, decide_true, decide_false, Bool.toNat_true, Bool.toNat_false] <;> omega

/-- The nine bits `C || f` as a number: halved, the lowest bit going to C (rule R135). -/
theorem rotateRight_toNat (c : Bool) (v : Byte) :
    2 * (rotateRight c v).value.toNat + (v.getLsbD 0).toNat = 256 * c.toNat + v.toNat := by
  have hvalue : (rotateRight c v).value.toNat = c.toNat * 128 + v.toNat / 2 := by
    rw [rotateRight, toNat_append_eq, BitVec.extractLsb'_toNat, BitVec.toNat_ofBool, Nat.shiftRight_eq_div_pow]
    omega
  rw [hvalue, BitVec.getLsbD, Nat.testBit_zero]
  by_cases h : v.toNat % 2 = 1 <;> simp only [h, decide_true, decide_false, Bool.toNat_true, Bool.toNat_false] <;> omega

end Sys2Proof.Machine

/-! The results of the byte-oriented operations, and their delivery (rules R120 to R138). -/

namespace Sys2Proof.Machine

/-! ## Results with their flags -/

theorem add8_eq (a b : Byte) :
    add8 a b = { value := BitVec.ofNat 8 (a.toNat + b.toNat)
                 flags := { c := some (256 ≤ a.toNat + b.toNat), dc := some (16 ≤ a.toNat % 16 + b.toNat % 16)
                            z := some ((a.toNat + b.toNat) % 256 = 0) } } :=
  congrArg₂ AluResult.mk (eq_ofNat_of_toNat (add8_value_toNat a b)) (add8_flags a b)

theorem sub8_eq (a b : Byte) :
    sub8 a b = { value := BitVec.ofNat 8 (a.toNat + 256 - b.toNat)
                 flags := { c := some (b.toNat ≤ a.toNat), dc := some (b.toNat % 16 ≤ a.toNat % 16)
                            z := some (a.toNat = b.toNat) } } :=
  congrArg₂ AluResult.mk (eq_ofNat_of_toNat (sub8_value_toNat a b)) (sub8_flags a b)

/-- A result of which only Z is listed, from its value and from when that is zero (rule R34). -/
theorem resultZ_eq {r v : Byte} {p : Prop} [Decidable p] (hv : r = v) (hz : (r == 0#8) = decide p) :
    resultZ r = { value := v, flags := { z := some (decide p) } } := by
  rw [resultZ, hz, hv]

theorem incremented_eq (v : Byte) :
    resultZ (v + 1#8) = { value := BitVec.ofNat 8 (v.toNat + 1), flags := { z := some (v.toNat = 255) } } :=
  resultZ_eq (add_one_eq_ofNat v) (add_one_beq_zero v)

theorem decremented_eq (v : Byte) :
    resultZ (v - 1#8) = { value := BitVec.ofNat 8 (v.toNat + 255), flags := { z := some (v.toNat = 1) } } :=
  resultZ_eq (sub_one_eq_ofNat v) (sub_one_beq_zero v)

/-! ## Delivery -/

section
variable (s : State) (f : Designator)

/-- A byte-oriented operation whose result on the operand is known completes and delivers it (rule R120). -/
theorem State.exists_byteOp_delivers (d : Dest) {op : Byte → AluResult} {v : Byte} {u : FlagUpdate}
    (hr : op (s.memRead (s.ea f)) = { value := v, flags := u }) :
    ∃ t, (.next (s.byteOp f d op) : Result) = .next t ∧ Delivers s t (s.dest f d) v u :=
  ⟨_, rfl, by simpa only [hr] using s.byteOp_delivers f d op⟩

/-- A literal operation completes and delivers its result to W. -/
theorem State.exists_literalOp_delivers (r : AluResult) :
    ∃ t, (.next (s.literalOp r) : Result) = .next t ∧ Delivers s t none r.value r.flags :=
  ⟨_, rfl, s.literalOp_delivers r⟩

end

/-! ## Skips on a result -/

/-- A skip right after a delivery to anything but PCL: the instruction behind the next one, in two cycles (rule R27). -/
theorem State.skipIf_of_delivers {s u : State} {target : Option FileReg} {v : Byte} {fl : FlagUpdate}
    (hd : Delivers s u target v fl) (hpcl : target ≠ some .pcl) (c : Bool) :
    u.skipIf c = if c then { u with pc := s.pc + 2#13, cycles := s.cycles + 2 } else u := by
  have hpc : u.pc = s.pc + 1#13 := hd.pc.trans (if_neg hpcl)
  have hcycles : u.cycles = s.cycles + 1 := by rw [hd.cycles, if_neg hpcl]
  have hnext : s.pc + 1#13 + 1#13 = s.pc + 2#13 := BitVec.add_assoc ..
  rw [State.skipIf_eq, hpc, hcycles, hnext]
  cases c with
  | true => rfl
  | false => simp only [Bool.false_eq_true, if_false, ← hpc, ← hcycles]

section
variable {s : State} {f : Designator} {d : Dest}

/-- DECFSZ and INCFSZ with any destination but PCL: the result is delivered, and a skip follows if it is 0 (rules R127,
R129). -/
theorem State.stepAndSkip_delivers (hpcl : s.dest f d ≠ some .pcl) {r v : Byte} {p : Prop} [Decidable p] (hv : r = v)
    (hz : (r == 0#8) = decide p) :
    ∃ u, Delivers s u (s.dest f d) v {} ∧
      s.stepAndSkip f d r = .next (if p then { u with pc := s.pc + 2#13, cycles := s.cycles + 2 } else u) := by
  have hd : Delivers s (s.deliver d (s.ea f) (resultOnly r)) (s.dest f d) r {} :=
    s.byteOp_delivers f d fun _ => resultOnly r
  have hdest : ¬(d = .file ∧ s.fileReg f = .pcl) := by
    rintro ⟨rfl, hreg⟩
    exact hpcl (congrArg some hreg)
  subst hv
  refine ⟨_, hd, ?_⟩
  rw [State.stepAndSkip, if_neg hdest, State.skipIf_of_delivers hd hpcl, hz]
  simp only [decide_eq_true_eq]

/-- With PCL as destination there are two writes of the program counter: refused (rule R29). -/
theorem State.stepAndSkip_pcl (h : s.fileReg f = .pcl) (r : Byte) : s.stepAndSkip f .file r = .refused .skipOnPcl :=
  if_pos ⟨rfl, h⟩

end

end Sys2Proof.Machine

/-! Successive rotations and swaps of one general purpose register (rules R134, R137, corner cases). -/

namespace Sys2Proof.Machine

/-! ## The nine bits of C and the register -/

/-- The nine bits that RLF rotates, C on top: `C || f` (rule R134). -/
def carryAndByte (c : Bool) (v : Byte) : BitVec 9 := BitVec.ofBool c ++ v

theorem carryAndByte_inj {c c' : Bool} {v v' : Byte} (h : carryAndByte c v = carryAndByte c' v') :
    c = c' ∧ v = v' := by
  have hbool : ∀ b b' : Bool, BitVec.ofBool b = BitVec.ofBool b' → b = b' := by decide
  obtain ⟨hc, hv⟩ := append_eq_append_iff.1 h
  exact ⟨hbool c c' hc, hv⟩

theorem getLsbD_carryAndByte (c : Bool) (v : Byte) (i : Nat) :
    (carryAndByte c v).getLsbD i = if i < 8 then v.getLsbD i else decide (i = 8) && c := by
  rw [carryAndByte, BitVec.getLsbD_append, BitVec.getLsbD_ofBool]
  by_cases hi : i < 8
  · simp [hi]
  · have htop : (i - 8 = 0) = (i = 8) := by rw [eq_iff_iff]; omega
    simp [hi, htop]

theorem getLsbD_rotateLeft_value (c : Bool) (v : Byte) (i : Nat) :
    (rotateLeft c v).value.getLsbD i = if i = 0 then c else decide (i < 8) && v.getLsbD (i - 1) := by
  rw [rotateLeft, BitVec.getLsbD_append]
  cases i with
  | zero => simp
  | succ i => simp [show i + 1 < 8 ↔ i < 7 by omega]

/-- RLF rotates the nine bits `C || f` by one (rule R134). -/
theorem carryAndByte_rotateLeft (c : Bool) (v : Byte) :
    carryAndByte (v.getLsbD 7) (rotateLeft c v).value = (carryAndByte c v).rotateLeft 1 := by
  apply BitVec.eq_of_getLsbD_eq
  intro i hi
  rw [BitVec.getLsbD_rotateLeft]
  simp only [getLsbD_carryAndByte, getLsbD_rotateLeft_value]
  interval_cases i <;> simp

/-- Nine rotations bring every one of nine bits back to its place. -/
theorem rotateLeft_iterate_nine (x : BitVec 9) : (fun y : BitVec 9 => y.rotateLeft 1)^[9] x = x := by
  apply BitVec.eq_of_getLsbD_eq
  intro i hi
  interval_cases i <;> simp [BitVec.getElem_rotateLeft]

/-- Exchanging the nibbles twice restores the byte (rule R137). -/
theorem swapNibbles_swapNibbles (v : Byte) : swapNibbles (swapNibbles v) = v := by
  unfold swapNibbles
  rw [BitVec.extractLsb'_append_eq_left, BitVec.extractLsb'_append_eq_right]
  exact (eq_append_fields 4 4 v).symm

/-! ## One instruction executed again and again -/

/-- If an instruction completes from every state with `P`, keeps `P`, and acts on the observation `obs` as `op` does,
then its `k`-fold execution acts as the `k`-fold `op`. -/
theorem exec_iterate {α : Type} {i : Instr} {P : State → Prop} {obs : State → α} {op : α → α}
    (hstep : ∀ s, P s → ∃ t, exec i s = .next t ∧ P t ∧ obs t = op (obs s))
    {run : Result → Result} (hrun : ∀ s, run (.next s) = exec i s) (k : Nat) {s : State} (hs : P s) :
    ∃ t, run^[k] (.next s) = .next t ∧ obs t = op^[k] (obs s) := by
  induction k generalizing s with
  | zero => exact ⟨s, rfl, rfl⟩
  | succ k ih =>
    obtain ⟨u, hu, hP, hobs⟩ := hstep s hs
    obtain ⟨t, ht, hop⟩ := ih hP
    refine ⟨t, ?_, ?_⟩
    · rw [Function.iterate_succ_apply, hrun, hu, ht]
    · rw [Function.iterate_succ_apply, hop, hobs]

section
variable {s t : State} {f : Designator} {n : Nat}

/-- A delivery to a general purpose register leaves what decides a designator's register: FSR, RP0 and the device. -/
theorem State.fileReg_of_delivers_gpr {v : Byte} {u : FlagUpdate} (hd : Delivers s t (some (.gpr n)) v u)
    (f : Designator) : t.fileReg f = s.fileReg f := by
  have hfsr : t.fsr = s.fsr := by simpa using hd.fsr
  have hrp0 : t.rp0 = s.rp0 := by
    have hbank : t.status.extractLsb' 5 3 = s.status.extractLsb' 5 3 := by simpa using hd.bankBits
    simpa [State.rp0] using congrArg (BitVec.getLsbD · 0) hbank
  rw [State.fileReg, State.ea_congr hfsr hrp0, hd.program.2, State.fileReg]

/-- A byte-oriented operation on a general purpose register delivers to it the result on its contents. -/
theorem State.byteOp_delivers_gpr (hf : s.fileReg f = .gpr n) (op : Byte → AluResult) :
    Delivers s (s.byteOp f .file op) (some (.gpr n)) (op (Memory.read s.gpr n)).value
      (op (Memory.read s.gpr n)).flags := by
  have hd := s.byteOp_delivers f .file op
  have hdest : s.dest f .file = some (.gpr n) := congrArg some hf
  rwa [State.memRead_gpr hf, hdest] at hd

/-- `RLF f, 1` on a general purpose register rotates C and the register (rule R134). -/
theorem exec_rlf_gpr (hf : s.fileReg f = .gpr n) :
    ∃ t, exec (.rlf f .file) s = .next t ∧ t.fileReg f = .gpr n ∧
      carryAndByte t.flagC (Memory.read t.gpr n) =
        (carryAndByte s.flagC (Memory.read s.gpr n)).rotateLeft 1 := by
  have hd := State.byteOp_delivers_gpr hf fun v => rotateLeft s.flagC v
  refine ⟨_, rfl, (State.fileReg_of_delivers_gpr hd f).trans hf, ?_⟩
  rw [hd.flagC, hd.gpr, if_pos rfl, ← carryAndByte_rotateLeft]
  rfl

/-- `SWAPF f, 1` on a general purpose register exchanges its nibbles (rule R137). -/
theorem exec_swapf_gpr (hf : s.fileReg f = .gpr n) :
    ∃ t, exec (.swapf f .file) s = .next t ∧ t.fileReg f = .gpr n ∧
      Memory.read t.gpr n = swapNibbles (Memory.read s.gpr n) := by
  have hd := State.byteOp_delivers_gpr hf fun v => resultOnly (swapNibbles v)
  exact ⟨_, rfl, (State.fileReg_of_delivers_gpr hd f).trans hf, (hd.gpr n).trans (if_pos rfl)⟩

end

end Sys2Proof.Machine

/-! The statements on the byte-oriented operations (40_byte_oriented.md), settled. -/

namespace Sys2Proof.Proofs

open Sys2Proof Sys2Proof.Machine

/-- Settles O12, group of registers by group, each by the inversion of an instruction that completes. -/
theorem anInstructionChangesOnlyWhatItNames : Obligations.AnInstructionChangesOnlyWhatItNames := by
  unfold Obligations.AnInstructionChangesOnlyWhatItNames
  intro i s t h
  obtain ⟨hpclath, hfsr, hbank⟩ := exec_keeps_addressing h
  obtain ⟨hintcon, hoption, htrisA, htrisB⟩ := exec_keeps_control h
  obtain ⟨hlatchA, hlatchB, heedata, heeadr, heecon1⟩ := exec_keeps_peripherals h
  obtain ⟨htmr0, hpsc, hwdt⟩ := exec_keeps_timers h
  obtain ⟨hsleeping, henv⟩ := exec_keeps_environment h
  exact ⟨exec_keeps_w h, hpclath, hfsr, hintcon, hoption, htrisA, htrisB, hlatchA, hlatchB, htmr0, hpsc, hwdt,
    heedata, heeadr, heecon1, exec_keeps_gpr h, exec_keeps_stack h, hbank, hsleeping, henv⟩

/-- Settles O25: the nine-bit and the five-bit sums are the numbers' sums, and their top bits the carries. -/
theorem addAndSubtractHelpers : Obligations.AddAndSubtractHelpers := by
  unfold Obligations.AddAndSubtractHelpers
  exact fun a b => ⟨add8_value_toNat a b, add8_flags a b, sub8_value_toNat a b, sub8_flags a b⟩

/-- Settles O26, from the helpers' arithmetic; SUBWF's Z compares the bytes themselves. -/
theorem addwfAndSubwfDeliver : Obligations.AddwfAndSubwfDeliver := by
  unfold Obligations.AddwfAndSubwfDeliver
  refine fun f d s => ⟨s.exists_byteOp_delivers f d (add8_eq _ _), s.exists_byteOp_delivers f d ?_⟩
  have hz : decide (s.w = s.memRead (s.ea f)) = decide ((s.memRead (s.ea f)).toNat = s.w.toNat) :=
    decide_eq_decide.2 (eq_comm.trans BitVec.toNat_inj.symm)
  rw [sub8_eq, hz]

/-- Settles O27: the encodings by the round trip, the results bit by bit. -/
theorem logicInstructionsDeliver : Obligations.LogicInstructionsDeliver := by
  unfold Obligations.LogicInstructionsDeliver
  refine ⟨fun f d => ⟨decode_encode (i := .andwf f d) rfl, decode_encode (i := .iorwf f d) rfl,
      decode_encode (i := .xorwf f d) rfl, decode_encode (i := .comf f d) rfl⟩,
    fun f d s => ⟨_, fun i _ => BitVec.getLsbD_and, s.exists_byteOp_delivers f d rfl⟩,
    fun f d s => ⟨_, fun i _ => BitVec.getLsbD_or, s.exists_byteOp_delivers f d rfl⟩,
    fun f d s => ⟨_, fun i _ => BitVec.getLsbD_xor, s.exists_byteOp_delivers f d rfl⟩,
    fun f d s => ⟨_, BitVec.toNat_not, s.exists_byteOp_delivers f d rfl⟩⟩

/-- Settles O28: the encodings by the round trip, the results as numbers. -/
theorem incfDecfMovfDeliver : Obligations.IncfDecfMovfDeliver := by
  unfold Obligations.IncfDecfMovfDeliver
  exact ⟨fun f d => ⟨decode_encode (i := .incf f d) rfl, decode_encode (i := .decf f d) rfl,
      decode_encode (i := .movf f d) rfl⟩,
    fun f d s => ⟨s.exists_byteOp_delivers f d (incremented_eq _), s.exists_byteOp_delivers f d (decremented_eq _),
      s.exists_byteOp_delivers f d (resultZ_eq rfl (beq_zero _))⟩⟩

/-- Settles O29: the encodings by the round trip, the exchanged nibbles as a number. -/
theorem clrfMovwfSwapfDeliver : Obligations.ClrfMovwfSwapfDeliver := by
  unfold Obligations.ClrfMovwfSwapfDeliver
  exact ⟨fun f d => ⟨decode_encode (i := .clrf f) rfl, decode_encode (i := .movwf f) rfl,
      decode_encode (i := .swapf f d) rfl⟩,
    fun f d s => ⟨s.exists_byteOp_delivers f .file rfl, s.exists_byteOp_delivers f .file rfl,
      s.exists_byteOp_delivers f d (congrArg resultOnly (swapNibbles_eq_ofNat _))⟩⟩

/-- Settles O30: the encodings by the round trip, the nine bits as one number. -/
theorem rotatesDeliver : Obligations.RotatesDeliver := by
  unfold Obligations.RotatesDeliver
  exact ⟨fun f d => ⟨decode_encode (i := .rlf f d) rfl, decode_encode (i := .rrf f d) rfl⟩,
    fun f d s => ⟨_, _, rotateLeft_toNat s.flagC _, s.exists_byteOp_delivers f d rfl⟩,
    fun f d s => ⟨_, _, rotateRight_toNat s.flagC _, s.exists_byteOp_delivers f d rfl⟩⟩

/-- Settles O31: RLF rotates nine bits by one and SWAPF exchanges two nibbles, on the register it keeps reaching. -/
theorem nineRotatesAndTwoSwapsRestore : Obligations.NineRotatesAndTwoSwapsRestore := by
  unfold Obligations.NineRotatesAndTwoSwapsRestore
  refine fun s f n hf => ⟨?rotates, ?swaps⟩
  case rotates =>
    refine (exec_iterate (P := fun u => u.fileReg f = .gpr n)
      (obs := fun u => carryAndByte u.flagC (Memory.read u.gpr n)) (op := fun x => x.rotateLeft 1)
      (fun _ => exec_rlf_gpr) (fun _ => ?run) 9 hf).imp fun t ⟨ht, hbits⟩ => ⟨ht, ?_⟩
    case run => rfl
    obtain ⟨hc, hv⟩ := carryAndByte_inj (hbits.trans (rotateLeft_iterate_nine _))
    exact ⟨hv, hc⟩
  case swaps =>
    refine (exec_iterate (P := fun u => u.fileReg f = .gpr n) (obs := fun u => Memory.read u.gpr n)
      (op := swapNibbles) (fun _ => exec_swapf_gpr) (fun _ => ?run) 2 hf).imp fun t ⟨ht, hv⟩ =>
        ⟨ht, hv.trans (swapNibbles_swapNibbles _)⟩
    case run => rfl

/-- Settles O32: a delivery, then a skip exactly on a zero result; the stop is the guard before both. -/
theorem decfszAndIncfszDeliverAndSkip : Obligations.DecfszAndIncfszDeliverAndSkip := by
  unfold Obligations.DecfszAndIncfszDeliverAndSkip
  exact ⟨fun f d => ⟨decode_encode (i := .decfsz f d) rfl, decode_encode (i := .incfsz f d) rfl⟩,
    fun f d s hpcl => ⟨State.stepAndSkip_delivers hpcl (sub_one_eq_ofNat _) (sub_one_beq_zero _),
      State.stepAndSkip_delivers hpcl (add_one_eq_ofNat _) (add_one_beq_zero _)⟩,
    fun f s hpcl => ⟨State.stepAndSkip_pcl hpcl _, State.stepAndSkip_pcl hpcl _⟩⟩

/-- Settles O33: the words by the don't-care forms of the decoder, the effects as deliveries to W. -/
theorem clrwNopMovlwComplete : Obligations.ClrwNopMovlwComplete := by
  unfold Obligations.ClrwNopMovlwComplete
  refine ⟨decode_clrw, decode_nop, fun x k => (decode_lit8_two_free x k).1, fun s k =>
    ⟨s.exists_literalOp_delivers _, ?nop, s.exists_literalOp_delivers _⟩⟩
  case nop =>
    have hpc : s.pc + 1#13 = BitVec.ofNat 13 (s.pc.toNat + 1) := by rw [BitVec.ofNat_add, BitVec.ofNat_toNat]; simp
    rw [← hpc]
    rfl

end Sys2Proof.Proofs

/-! The statements on the bit-oriented operations (41_bit_oriented.md), settled, with the lemmas they share. -/

namespace Sys2Proof.Machine

/-- A bit designator always names a bit of the byte: that bit is written, the other seven are kept (rule R150). -/
theorem getLsbD_withBit_bitIndex (v : Byte) (b : BitIndex) (c : Bool) (i : Nat) :
    (withBit v b.toNat c).getLsbD i = if i = b.toNat then c else v.getLsbD i := by
  have hb : b.toNat < 8 := b.isLt
  simp only [getLsbD_withBit, hb, and_true]

/-- A program address some words further on, as a number modulo the address space. -/
theorem pc_add_eq_ofNat (a : ProgAddr) (n : Nat) : a + BitVec.ofNat 13 n = BitVec.ofNat 13 (a.toNat + n) := by
  rw [BitVec.ofNat_add, BitVec.ofNat_toNat, BitVec.setWidth_eq]

section
variable (s : State)

/-- Writing one bit of a file register reads the whole byte and delivers it with that bit changed (rules R151, R152). -/
theorem State.exists_withBit_delivers (f : Designator) (b : BitIndex) (c : Bool) :
    ∃ v : Byte, (∀ i, i < 8 → v.getLsbD i = if i = b.toNat then c else (s.memRead (s.ea f)).getLsbD i) ∧
      ∃ t, (.next (s.byteOp f .file fun u => resultOnly (withBit u b.toNat c)) : Result) = .next t ∧
        Delivers s t (some (s.fileReg f)) v {} :=
  ⟨_, fun i _ => getLsbD_withBit_bitIndex _ b c i, s.exists_byteOp_delivers f .file rfl⟩

/-- An instruction that only tests: the next instruction, or the one behind it in two cycles (rule R27). -/
theorem State.advance_skipIf (c : Bool) :
    s.advance.skipIf c =
      if c then { s with pc := BitVec.ofNat 13 (s.pc.toNat + 2), cycles := s.cycles + 2 }
      else { s with pc := BitVec.ofNat 13 (s.pc.toNat + 1), cycles := s.cycles + 1 } := by
  rw [← pc_add_eq_ofNat, ← pc_add_eq_ofNat]
  cases c with
  | false => rfl
  | true =>
    have hnext : s.pc + 1#13 + 1#13 = s.pc + 2#13 := BitVec.add_assoc ..
    rw [State.skipIf_eq, State.advance_pc, if_pos rfl, hnext]
    rfl

end

end Sys2Proof.Machine

namespace Sys2Proof.Proofs

open Sys2Proof Sys2Proof.Machine

/-- Settles O35: the encodings by the round trip, the two effects as one write of a bit. -/
theorem bcfAndBsfDeliver : Obligations.BcfAndBsfDeliver := by
  unfold Obligations.BcfAndBsfDeliver
  exact ⟨fun f b => ⟨decode_encode (i := .bcf f b) rfl, decode_encode (i := .bsf f b) rfl⟩,
    fun f b s => s.exists_withBit_delivers f b false, fun f b s => s.exists_withBit_delivers f b true⟩

/-- Settles O36: the encodings by the round trip, the effects as a skip on the tested bit. -/
theorem btfscAndBtfssSkip : Obligations.BtfscAndBtfssSkip := by
  unfold Obligations.BtfscAndBtfssSkip
  refine ⟨fun f b => ⟨decode_encode (i := .btfsc f b) rfl, decode_encode (i := .btfss f b) rfl⟩,
    fun f b s => ⟨?clear, congrArg Host.Outcome.next (s.advance_skipIf _)⟩⟩
  case clear =>
    refine (congrArg Host.Outcome.next (s.advance_skipIf _)).trans ?_
    simp only [Bool.not_eq_true']

end Sys2Proof.Proofs

/-! What the literal and control operations share (42_literal_control.md): the jump target, a pop, a pop right after a
push, and the watchdog's clearing with TO and PD. -/

namespace Sys2Proof.Machine

/-! ## Delivery to W -/

/-- A literal operation whose result is known completes and delivers it to W. -/
theorem State.exists_literalOp_delivers_of_eq (s : State) {r : AluResult} {v : Byte} {u : FlagUpdate}
    (hr : r = { value := v, flags := u }) :
    ∃ t, (.next (s.literalOp r) : Result) = .next t ∧ Delivers s t none v u := by
  simpa only [hr] using s.exists_literalOp_delivers r

/-! ## The target of CALL and GOTO -/

/-- `PCLATH[4:3] || k` as a number. -/
theorem State.pageTarget_toNat (s : State) (k : BitVec 11) :
    (s.pageTarget k).toNat = s.pclath.toNat / 8 * 2048 + k.toNat := by
  have hpage : (s.pclath.extractLsb' 3 2).toNat = s.pclath.toNat / 8 := by
    rw [BitVec.extractLsb'_toNat, Nat.shiftRight_eq_div_pow]; omega
  exact (toNat_append_eq ..).trans (congrArg (· * 2048 + k.toNat) hpage)

/-! ## The return stack -/

/-- A pop into the program counter that completes (rule R32), in two cycles (rule R232). -/
theorem State.popToPc_of_tosWritten {s : State} (h : s.tosWritten = true) :
    s.popToPc = .next { s with pc := s.tos, sp := s.sp - 1#3, cycles := s.cycles + 2 } :=
  (s.popToPc_eq_next _).2 ⟨h, rfl⟩

/-- A pop moves every entry one place up (rule R32). -/
theorem State.dropTop_stackEntry (s : State) (k : Nat) : s.dropTop.stackEntry k = s.stackEntry (k + 1) := by
  have hslot : s.sp - 1#3 - 1#3 - BitVec.ofNat 3 k = s.sp - 1#3 - BitVec.ofNat 3 (k + 1) := by
    rw [BitVec.ofNat_add]
    bv_omega
  simp only [State.stackEntry, State.dropTop_sp, State.dropTop_stack, hslot]

/-- The seven entries that a push keeps are in their places again after the pop (rules R31, R32). -/
theorem State.push_dropTop_stackEntry (s : State) (v : ProgAddr) {k : Nat} (hk : k < 7) :
    (s.push v).dropTop.stackEntry k = s.stackEntry k := by
  rw [State.dropTop_stackEntry, State.push_stackEntry_succ s v hk]

/-- A push marks the slot it writes and no other (rule R32). -/
theorem State.push_stackWritten_of_ne (s : State) (v : ProgAddr) {j : Nat} (hj : j ≠ s.sp.toNat) :
    (s.push v).stackWritten.getLsbD j = s.stackWritten.getLsbD j := by
  simp [hj]

/-! ## GIE -/

/-- Setting GIE leaves the other seven bits of INTCON (rule R40). -/
theorem State.setGie_intcon_low (s : State) (b : Bool) {i : Nat} (hi : i < 7) :
    (s.setGie b).intcon.getLsbD i = s.intcon.getLsbD i := by
  simp [hi.ne]

/-! ## The watchdog's counts with TO and PD -/

section
variable (s : State)

/-- Of STATUS only TO and PD are written, which are bits 4 and 3 (rules R37, R38). -/
theorem State.setTOPD_status_of_ne (timeOut powerDown : Bool) {i : Nat} (h3 : i ≠ 3) (h4 : i ≠ 4) :
    (s.setTOPD timeOut powerDown).status.getLsbD i = s.status.getLsbD i := by
  simp [h3, h4]

/-- The prescaler's count is cleared with the watchdog's when PSA gives it to the watchdog (rule R41). -/
theorem State.clearWatchdog_psc_of_psa (h : s.optionReg.getLsbD 3 = true) : s.clearWatchdog.psc = 0x00#8 :=
  if_pos h

/-- The prescaler's count stays when PSA gives it to Timer0 (rule R41). -/
theorem State.clearWatchdog_psc_of_not_psa (h : s.optionReg.getLsbD 3 = false) : s.clearWatchdog.psc = s.psc :=
  if_neg (Bool.eq_false_iff.1 h)

end

/-- SLEEP completes when no enabled interrupt is pending (rules R170, R206). -/
theorem exec_sleep_of_not_pending {s : State} (h : s.pending = false) :
    exec .sleep s = .next (s.advance.clearWatchdog.setTOPD true false).fallAsleep :=
  if_neg (Bool.eq_false_iff.1 h)

end Sys2Proof.Machine

/-! The statements on the literal and control operations (42_literal_control.md), settled. -/

namespace Sys2Proof.Proofs

open Sys2Proof Sys2Proof.Machine

/-- Settles O37, from the helpers' arithmetic; SUBLW's Z compares the bytes themselves. -/
theorem addlwAndSublwDeliver : Obligations.AddlwAndSublwDeliver := by
  unfold Obligations.AddlwAndSublwDeliver
  refine fun k s => ⟨s.exists_literalOp_delivers_of_eq (add8_eq s.w k), s.exists_literalOp_delivers_of_eq ?_⟩
  have hz : decide (s.w = k) = decide (k.toNat = s.w.toNat) :=
    decide_eq_decide.2 (eq_comm.trans BitVec.toNat_inj.symm)
  rw [sub8_eq, hz]

/-- Settles O38: the encodings by the round trip, the results bit by bit. -/
theorem logicLiteralsDeliver : Obligations.LogicLiteralsDeliver := by
  unfold Obligations.LogicLiteralsDeliver
  exact ⟨fun k => ⟨decode_encode (i := .andlw k) rfl, decode_encode (i := .iorlw k) rfl,
      decode_encode (i := .xorlw k) rfl⟩,
    fun k s => ⟨_, fun i _ => BitVec.getLsbD_and, s.exists_literalOp_delivers (resultZ (s.w &&& k))⟩,
    fun k s => ⟨_, fun i _ => BitVec.getLsbD_or, s.exists_literalOp_delivers (resultZ (s.w ||| k))⟩,
    fun k s => ⟨_, fun i _ => BitVec.getLsbD_xor, s.exists_literalOp_delivers (resultZ (s.w ^^^ k))⟩⟩

/-- Settles O40: the encoding by the round trip, the stack by the rules of a push. -/
theorem callPushesAndBranches : Obligations.CallPushesAndBranches := by
  unfold Obligations.CallPushesAndBranches
  refine ⟨fun k => decode_encode (i := .call k) rfl, fun k s =>
    ⟨(s.advance.push (s.pc + 1#13)).jump (s.pageTarget k), rfl, s.pageTarget_toNat k, ?top,
      s.advance.push_tosWritten (s.pc + 1#13), fun j => s.advance.push_stackEntry_succ (s.pc + 1#13),
      fun j => s.advance.push_stackWritten_of_ne (s.pc + 1#13), rfl⟩⟩
  case top => exact (congrArg BitVec.toNat (s.advance.push_tos _)).trans (BitVec.toNat_add s.pc 1#13)

/-- Settles O44: the pop finds the slot the push wrote, and takes the pointer back to where it was. -/
theorem callThenReturnComesBack : Obligations.CallThenReturnComesBack := by
  unfold Obligations.CallThenReturnComesBack
  intro s k
  have hwritten : ((s.advance.push (s.pc + 1#13)).jump (s.pageTarget k)).tosWritten = true :=
    s.advance.push_tosWritten (s.pc + 1#13)
  refine ⟨_, _, rfl, State.popToPc_of_tosWritten hwritten, s.advance.push_tos (s.pc + 1#13), ?frame,
    fun j => s.advance.push_dropTop_stackEntry (s.pc + 1#13)⟩
  case frame =>
    simp only [State.jump_sp, State.push_sp, State.advance_sp, sp_succ_pred]
    rfl

/-- Settles O39: the encoding by the round trip, the target as a number. -/
theorem gotoBranches : Obligations.GotoBranches := by
  unfold Obligations.GotoBranches
  refine ⟨fun k => decode_encode (i := .goto k) rfl, fun k s => ?_⟩
  rw [← s.pageTarget_toNat, BitVec.ofNat_toNat, BitVec.setWidth_eq]
  rfl

/-- Settles O41: one pop, of the state with W loaded or with GIE set. -/
theorem returnsPopTheStack : Obligations.ReturnsPopTheStack := by
  unfold Obligations.ReturnsPopTheStack
  intro s h
  have hgie : (s.setGie true).gie = true := by simp [State.gie]
  exact ⟨State.popToPc_of_tosWritten h, fun k => State.popToPc_of_tosWritten (s := s.setW k) h,
    _, State.popToPc_of_tosWritten (s := s.setGie true) h, rfl, hgie, fun i => s.setGie_intcon_low true⟩

/-- Settles O45: both clear the watchdog and write TO and PD; SLEEP then stops the core. -/
theorem clrwdtAndSleepComplete : Obligations.ClrwdtAndSleepComplete := by
  unfold Obligations.ClrwdtAndSleepComplete
  refine fun s => ⟨⟨s.advance.clearWatchdog.setTOPD true true, rfl, ?clrwdt⟩,
    fun hp => ⟨(s.advance.clearWatchdog.setTOPD true false).fallAsleep, exec_sleep_of_not_pending hp, ?sleep⟩⟩
  case clrwdt =>
    exact ⟨State.setTOPD_flagTO .., State.setTOPD_flagPD .., rfl, s.advance.clearWatchdog_psc_of_psa,
      s.advance.clearWatchdog_psc_of_not_psa, fun i => s.advance.clearWatchdog.setTOPD_status_of_ne true true, rfl⟩
  case sleep =>
    exact ⟨State.setTOPD_flagTO .., State.setTOPD_flagPD .., rfl, s.advance.clearWatchdog_psc_of_psa,
      s.advance.clearWatchdog_psc_of_not_psa, fun i => s.advance.clearWatchdog.setTOPD_status_of_ne true false,
      rfl, rfl⟩

end Sys2Proof.Proofs

/-! OPTION and TRIS (43_option_tris.md): one setter behind the advance, as is MOVWF where its designator reaches the same
register; and the two statements on them, settled. -/

namespace Sys2Proof.Machine

/-- The advance with the address as a number (rules R26, R230). -/
theorem State.advance_eq (s : State) :
    s.advance = { s with pc := BitVec.ofNat 13 (s.pc.toNat + 1), cycles := s.cycles + 1 } := by
  rw [← pc_add_eq_ofNat]
  rfl

/-! ## The instructions -/

theorem exec_option (s : State) : exec .option s = .next (s.advance.setOption s.w) := rfl

theorem exec_tris_five (s : State) : exec (.tris 5#3) s = .next (s.advance.setTrisA s.w) := rfl

theorem exec_tris_six (s : State) : exec (.tris 6#3) s = .next (s.advance.setTrisB s.w) := rfl

/-- MOVWF lists no flag, so its delivery is the bare write of W behind the advance (rule R132). -/
theorem exec_movwf (s : State) (f : Designator) :
    exec (.movwf f) s = .next (s.advance.memWrite false (s.ea f) s.w) := rfl

/-! ## A write of one of the three registers -/

section
variable {s : State} {a : Byte} (aff : Bool) (v : Byte)

theorem State.memWrite_optionReg_eq (ha : fileMap s.params a = .optionReg) : s.memWrite aff a v = s.setOption v := by
  simp [State.memWrite, ha]

theorem State.memWrite_trisA_eq (ha : fileMap s.params a = .trisA) : s.memWrite aff a v = s.setTrisA v := by
  simp [State.memWrite, ha]

theorem State.memWrite_trisB_eq (ha : fileMap s.params a = .trisB) : s.memWrite aff a v = s.setTrisB v := by
  simp [State.memWrite, ha]

end

end Sys2Proof.Machine

namespace Sys2Proof.Proofs

open Sys2Proof Sys2Proof.Machine

/-- Settles O47: each instruction that completes is one setter behind the advance; operand 7 is the arm that stops. -/
theorem optionAndTrisComplete : Obligations.OptionAndTrisComplete := by
  unfold Obligations.OptionAndTrisComplete
  intro s
  have htris7 : exec (.tris 7#3) s = .refused .trisNoSuchPort := rfl
  rw [exec_option, exec_tris_five, exec_tris_six, s.advance_eq]
  exact ⟨rfl, rfl, rfl, htris7⟩

/-- Settles O48: where the designator reaches the register, MOVWF's write of W behind the advance is the setter that
OPTION or TRIS applies there. -/
theorem optionAndTrisAgreeWithMovwf : Obligations.OptionAndTrisAgreeWithMovwf := by
  unfold Obligations.OptionAndTrisAgreeWithMovwf
  intro s f
  have hreg : fileMap s.advance.params (s.ea f) = s.fileReg f := rfl
  rw [exec_movwf]
  refine ⟨fun h => ?option, fun h => ?trisA, fun h => ?trisB⟩
  case option => rw [exec_option, State.memWrite_optionReg_eq _ _ (hreg.trans h)]
  case trisA => rw [exec_tris_five, State.memWrite_trisA_eq _ _ (hreg.trans h)]
  case trisB => rw [exec_tris_six, State.memWrite_trisB_eq _ _ (hreg.trans h)]

end Sys2Proof.Proofs

/-! What rule R195 calls pending, the boundaries without a reset or time-out, interrupt entry and the return from it, and
sleep (60_exceptions.md). -/

namespace Sys2Proof.Machine

/-! ## Pending sources -/

/-- The four sources of rule R195, flag and enable both 1. -/
theorem State.pending_iff (s : State) :
    s.pending = true ↔
      (s.intcon.getLsbD 1 = true ∧ s.intcon.getLsbD 4 = true) ∨ (s.intcon.getLsbD 2 = true ∧ s.intcon.getLsbD 5 = true) ∨
      (s.intcon.getLsbD 0 = true ∧ s.intcon.getLsbD 3 = true) ∨
      (s.eecon1.getLsbD 4 = true ∧ s.intcon.getLsbD 6 = true) := by
  simp only [State.pending, State.intPending, State.timerPending, State.portPending, State.eepromPending,
    Bool.or_eq_true, Bool.and_eq_true, or_assoc]

/-- The three of them that end SLEEP (rule R206). -/
theorem State.wakePending_iff (s : State) :
    s.wakePending = true ↔
      (s.intcon.getLsbD 1 = true ∧ s.intcon.getLsbD 4 = true) ∨ (s.intcon.getLsbD 0 = true ∧ s.intcon.getLsbD 3 = true) ∨
      (s.eecon1.getLsbD 4 = true ∧ s.intcon.getLsbD 6 = true) := by
  simp only [State.wakePending, State.intPending, State.portPending, State.eepromPending, Bool.or_eq_true,
    Bool.and_eq_true, or_assoc]

/-- Timer0 is the one source that is pending without ending SLEEP (rules R195, R206). -/
theorem State.pending_eq_or (s : State) : s.pending = (s.timerPending || s.wakePending) := by
  simp only [State.pending, State.wakePending, Bool.or_assoc, Bool.or_left_comm]

/-- With GIE set a source that ends SLEEP requests an interrupt (rules R195, R206). -/
theorem State.request_of_wakePending {s : State} (hg : s.gie = true) (hw : s.wakePending = true) : s.request = true := by
  simp only [State.request, State.pending_eq_or, hg, hw, Bool.or_true, Bool.and_true]

/-- In SLEEP Timer0 stands still, so no move makes it pending (rules R193, R206). -/
theorem State.moved_timerPending_of_sleeping {s : State} (hs : s.sleeping = true) :
    s.moved.timerPending = s.timerPending := by
  have hflag : s.moved.intcon.getLsbD 2 = s.intcon.getLsbD 2 := by
    rw [State.moved_intcon, State.flagsRaised_T0IF, hs, Bool.not_true, Bool.and_false, Bool.or_false]
  have henable : s.moved.intcon.getLsbD 5 = s.intcon.getLsbD 5 := s.getLsbD_flagsRaised_high s.nextMove (by decide)
  simp only [State.timerPending, hflag, henable]

/-! ## The boundary -/

/-- Two states whose boundaries agree on the moved state and on what the event brings step alike. -/
theorem step_congr {s t : State} (hm : s.moved = t.moved)
    (he : s.moved.eventOutcome s.nextMove.event = t.moved.eventOutcome t.nextMove.event) : step s = step t := by
  have hboundary : s.boundary = t.boundary := by rw [State.boundary_eq, State.boundary_eq, he, hm]
  unfold step State.cycle
  rw [hboundary]

/-- A quiet environment brings no reset and no time-out. -/
theorem State.eventOutcome_of_env_nil {s : State} (h : s.env = []) : s.moved.eventOutcome s.nextMove.event = none := by
  rw [State.nextMove, h]
  rfl

/-- A reset or an effective time-out leaves the core awake (rules R204, R206, R220). -/
theorem State.eventOutcome_awake {s t : State} {e : Option LineEvent} (h : s.eventOutcome e = some t) :
    t.sleeping = false := by
  cases e with
  | none => cases h
  | some e =>
    cases e with
    | powerOn x => cases h; rfl
    | mclr q => cases h; rfl
    | watchdog q =>
      simp only [State.eventOutcome, Option.ite_none_right_eq_some, Option.some.injEq] at h
      obtain ⟨-, rfl⟩ := h
      split <;> rfl

/-- Without a reset or time-out the whole step is what the boundary settles, if it settles anything. -/
theorem step_of_settled {s t : State} (he : s.moved.eventOutcome s.nextMove.event = none)
    (h : s.moved.interruptOutcome = .settled t) : step s = .next t := by
  unfold step State.cycle
  simp only [State.boundary_eq, he, h]

/-- A sleeping core at a boundary without reset or time-out wakes or sleeps on (rule R206). -/
theorem step_of_sleeping {s : State} (he : s.moved.eventOutcome s.nextMove.event = none) (hs : s.sleeping = true) :
    step s = .next (if s.moved.wakePending then s.moved.wakeByInterrupt else s.moved) := by
  have houtcome : s.moved.interruptOutcome =
      .settled (if s.moved.wakePending then s.moved.wakeByInterrupt else s.moved) := if_pos hs
  exact step_of_settled he houtcome

/-- A source that ends SLEEP wakes the core (rule R206). -/
theorem step_of_wakePending {s : State} (he : s.moved.eventOutcome s.nextMove.event = none) (hs : s.sleeping = true)
    (hw : s.moved.wakePending = true) : step s = .next s.moved.wakeByInterrupt := by
  rw [step_of_sleeping he hs, if_pos hw]

/-- A core that has not just been woken takes a requested interrupt (rules R196, R197). -/
theorem step_of_request {s : State} (he : s.moved.eventOutcome s.nextMove.event = none) (hs : s.sleeping = false)
    (ha : s.afterWake = false) (hr : s.moved.request = true) : step s = .next s.moved.takeInterrupt := by
  have hawake : ¬ s.moved.sleeping = true := Bool.eq_false_iff.1 hs
  have hunheld : (s.moved.request && !s.moved.afterWake) = true := by rw [hr, State.moved_afterWake, ha]; rfl
  have houtcome : s.moved.interruptOutcome = .settled s.moved.takeInterrupt := (if_neg hawake).trans (if_pos hunheld)
  exact step_of_settled he houtcome

/-! ## Interrupt entry and the return from it -/

/-- Entry pushes the program counter (rule R196). -/
@[simp] theorem State.takeInterrupt_tos (s : State) : s.takeInterrupt.tos = s.pc := s.push_tos s.pc

/-- After entry the top of stack may be popped (rules R32, R196). -/
@[simp] theorem State.takeInterrupt_tosWritten (s : State) : s.takeInterrupt.tosWritten = true := s.push_tosWritten s.pc

/-- Entry leaves the other seven bits of INTCON (rule R196). -/
theorem State.takeInterrupt_intcon_low (s : State) {i : Nat} (hi : i < 7) :
    s.takeInterrupt.intcon.getLsbD i = s.intcon.getLsbD i :=
  s.setGie_intcon_low false hi

/-- GIE cleared by entry and set by RETFIE is INTCON as before, if GIE was 1 (rules R196, R199). -/
theorem State.setGie_takeInterrupt_intcon {s : State} (hg : s.gie = true) :
    (s.takeInterrupt.setGie true).intcon = s.intcon := by
  apply BitVec.eq_of_getLsbD_eq
  intro i _
  by_cases hi : i = 7
  · subst hi
    exact (getLsbD_withBit ..).trans hg.symm
  · simp only [State.setGie_intcon, State.takeInterrupt_intcon, getLsbD_withBit, hi, false_and, if_false]

/-! ## Sleep -/

/-- No instruction leaves a core asleep with an enabled interrupt pending: only SLEEP stops the core, and it completes
with none pending (rule R206). -/
theorem exec_sleepInv {i : Instr} {s t : State} (h : exec i s = .next t) (hs : s.sleeping = false) : SleepInv t := by
  by_cases hi : i = .sleep
  · subst hi
    cases exec_cases h with
    | result _ _ _ _ hi => exact absurd rfl hi.2.1
    | sleep hp => exact fun _ => hp
  · obtain ⟨hkeep, -⟩ := exec_keeps_environment h
    intro ht
    exact absurd (ht.symm.trans ((hkeep hi).trans hs)) (by decide)

/-- A core that sleeps through a boundary has no enabled interrupt pending: Timer0 had none and stands still, and none of
the other sources wakes it (rules R193, R206). -/
theorem State.moved_sleepInv {s : State} (h : SleepInv s) (hw : s.moved.wakePending = false) : SleepInv s.moved := by
  intro hs
  have hpending : (s.timerPending || s.wakePending) = false := s.pending_eq_or ▸ h hs
  obtain ⟨htimer, -⟩ := Bool.or_eq_false_iff.1 hpending
  have hstill : s.moved.timerPending = false :=
    (State.moved_timerPending_of_sleeping (s := s) hs).trans htimer
  rw [State.pending_eq_or, hstill, hw]
  rfl

/-- An awake core meets the sleep invariant. -/
theorem sleepInv_of_awake {s : State} (h : s.sleeping = false) : SleepInv s :=
  fun hs => absurd (h.symm.trans hs) (by decide)

/-- No instruction touches the hold after a wake-up (rule R206). -/
theorem exec_keeps_afterWake {i : Instr} {s t : State} (h : exec i s = .next t) : t.afterWake = s.afterWake := by
  obtain ⟨-, -, -, -, -, -, -, hkeep⟩ := exec_keeps_environment h
  exact hkeep

/-- After a wake-up the instruction after SLEEP runs, whatever is requested (rule R206). -/
theorem step_wakeByInterrupt {s : State} {w : ProgWord} {i : Instr} (hw : s.progRead s.pc = some w)
    (hd : decode w = .instr i)
    (he : s.wakeByInterrupt.moved.eventOutcome s.wakeByInterrupt.nextMove.event = none) :
    step s.wakeByInterrupt = exec i s.wakeByInterrupt.moved.endWake :=
  step_eq_exec he rfl (.inr rfl) hw hd

end Sys2Proof.Machine

/-! The statements on interrupts, sleep and the watchdog (60_exceptions.md), settled. -/

namespace Sys2Proof.Proofs

open Sys2Proof Sys2Proof.Machine

/-- Settles O53, by the inversion of a step: every case but two leaves the core awake; one sleeps on, the other may execute
SLEEP. -/
theorem everyStepKeepsTheSleepInvariant : Obligations.EveryStepKeepsTheSleepInvariant := by
  unfold Obligations.EveryStepKeepsTheSleepInvariant
  intro s t hinv h
  cases step_cases h with
  | event he => exact sleepInv_of_awake (State.eventOutcome_awake he)
  | asleep _ _ hw ht => exact ht ▸ State.moved_sleepInv hinv hw
  | wake _ _ _ ht => exact sleepInv_of_awake (ht ▸ rfl)
  | entry _ hs _ _ ht => exact sleepInv_of_awake (ht ▸ hs)
  | instr i w _ hs _ _ _ ht => exact exec_sleepInv ht hs

/-- Settles O49: the step is the entry, and its stack is that of a push. -/
theorem interruptEntry : Obligations.InterruptEntry := by
  unfold Obligations.InterruptEntry
  intro s he hs ha hg hp
  have hrequest : s.moved.request = true := Bool.and_eq_true_iff.2 ⟨hg, s.moved.pending_iff.2 hp⟩
  exact ⟨s.moved.takeInterrupt, step_of_request he hs ha hrequest, rfl, s.moved.takeInterrupt_tos,
    s.moved.takeInterrupt_tosWritten, s.moved.takeInterrupt_gie, fun i => s.moved.takeInterrupt_intcon_low,
    fun j => s.moved.push_stackEntry_succ s.pc, rfl⟩

/-- Settles O50: the pop finds the slot that entry wrote, and GIE is the one bit of INTCON that entry changed. -/
theorem retfieUndoesInterruptEntry : Obligations.RetfieUndoesInterruptEntry := by
  unfold Obligations.RetfieUndoesInterruptEntry
  intro s hg
  have hwritten : (s.takeInterrupt.setGie true).tosWritten = true := s.takeInterrupt_tosWritten
  have htos : (s.takeInterrupt.setGie true).tos = s.pc := s.takeInterrupt_tos
  refine ⟨_, State.popToPc_of_tosWritten hwritten, ?frame, fun j => s.push_dropTop_stackEntry s.pc⟩
  case frame =>
    have hsp : (s.takeInterrupt.setGie true).sp - 1#3 = s.sp := sp_succ_pred s.sp
    rw [htos, hsp, ← State.setGie_takeInterrupt_intcon hg]
    rfl

/-- Settles O51: the step of a sleeping core, with the sources that end SLEEP written out. -/
theorem sleepEndsOnlyByItsWakeUpSources : Obligations.SleepEndsOnlyByItsWakeUpSources := by
  unfold Obligations.SleepEndsOnlyByItsWakeUpSources
  intro s he hs
  rw [← State.wakePending_iff, step_of_sleeping he hs]
  refine ⟨fun hw => ?wakes, fun hw => ?sleepsOn⟩
  case wakes => rw [if_pos hw]; rfl
  case sleepsOn => rw [if_neg hw, ← hs]; rfl

/-- Settles O52: the waking step holds entry back for one instruction, which ends the hold. -/
theorem instructionAfterSleepRunsBeforeEntry : Obligations.InstructionAfterSleepRunsBeforeEntry := by
  unfold Obligations.InstructionAfterSleepRunsBeforeEntry
  refine ⟨fun s w i he hs hw hread hd => ?anyInstruction, fun s w he htail hs hw hg hread hd => ?nop⟩
  case anyInstruction =>
    refine ⟨s.moved.wakeByInterrupt, step_of_wakePending he hs hw, rfl, rfl, fun het => ?_⟩
    have hrun := step_wakeByInterrupt (s := s.moved) hread hd het
    refine ⟨hrun, fun u hu hawake heu hrequest => ?_⟩
    have hunheld : u.afterWake = false := exec_keeps_afterWake (hrun.symm.trans hu)
    exact ⟨u.moved.takeInterrupt, step_of_request heu hawake hunheld hrequest, rfl, u.moved.takeInterrupt_tos,
      u.moved.takeInterrupt_gie⟩
  case nop =>
    have htmoved : s.moved.wakeByInterrupt.moved = s.moved.wakeByInterrupt := State.moved_of_env_nil htail
    have hrun : step s.moved.wakeByInterrupt = .next s.moved.wakeByInterrupt.endWake.advance := by
      rw [step_wakeByInterrupt (s := s.moved) hread hd (State.eventOutcome_of_env_nil htail), htmoved]
      rfl
    have humoved : s.moved.wakeByInterrupt.endWake.advance.moved = s.moved.wakeByInterrupt.endWake.advance :=
      State.moved_of_env_nil htail
    have hrequest : s.moved.request = true := State.request_of_wakePending (s.moved_gie.trans hg) hw
    have hentry := step_of_request (s := s.moved.wakeByInterrupt.endWake.advance) (State.eventOutcome_of_env_nil htail)
      rfl rfl (humoved.symm ▸ hrequest)
    exact ⟨_, _, _, step_of_wakePending he hs hw, rfl, hrun, rfl, hentry, rfl, State.takeInterrupt_tos _⟩

/-- Settles O55: a disabled watchdog's time-out brings nothing; an enabled one's is the whole step. -/
theorem watchdogTimeOut : Obligations.WatchdogTimeOut := by
  unfold Obligations.WatchdogTimeOut
  intro s q he
  refine ⟨fun hoff => ?disabled, fun hon hs => ?sleeping, fun hon hs => ?running⟩
  case disabled =>
    refine step_congr rfl ?_
    rw [he]
    exact if_neg (by simp [hoff])
  case sleeping =>
    have hstep : step s = .next s.moved.wakeByWatchdog :=
      step_of_event (by rw [he]; simp [State.eventOutcome, hon, hs])
    refine ⟨_, hstep, ?_, ?_, fun i hi => ?_, rfl, rfl⟩
    · simp [State.flagTO]
    · simp [State.flagPD]
    · simp [hi]
  case running =>
    have hstep : step s = .next (s.moved.watchdogReset q) :=
      step_of_event (by rw [he]; simp [State.eventOutcome, hon, hs])
    obtain ⟨hbank, hto, hpd, hflags⟩ := resetStatus_fields false true (s.status.extractLsb' 0 3)
    refine ⟨_, hstep, hto, hpd, hbank, hflags, fun i hi => ?_, getLsbD_resetIntcon _ 0,
      State.tosWritten_of_stackWritten_zero rfl, ?_⟩
    · exact (getLsbD_resetIntcon _ i).trans (if_neg (by omega))
    · rw [← resetEecon1_eq]; rfl

/-- Settles O46: one of the four sources is what SLEEP tests for. -/
theorem sleepStopsWithAnInterruptPending : Obligations.SleepStopsWithAnInterruptPending := by
  unfold Obligations.SleepStopsWithAnInterruptPending
  exact fun s hp => if_pos (s.pending_iff.2 hp)

end Sys2Proof.Proofs

/-! The cycles an instruction that completes takes (rules R28, R231, R232), one rule for each way of completing. -/

namespace Sys2Proof.Machine

/-! ## Deliveries -/

section
variable {i : Instr} {s t : State} {f : Designator} {d : Dest}

/-- A byte-oriented operation takes a second cycle exactly when its destination is PCL. -/
theorem cycles_of_byteOp {op : Byte → AluResult} (h : Host.Outcome.next (s.byteOp f d op) = (.next t : Result))
    (hd : s.written i = s.dest f d) : t.cycles = s.cycles + if s.written i = some .pcl then 2 else 1 := by
  cases h
  rw [hd]
  exact (s.byteOp_delivers f d op).cycles

/-- A literal operation never writes PCL, so it takes one cycle. -/
theorem cycles_of_literalOp {r : AluResult} (h : Host.Outcome.next (s.literalOp r) = (.next t : Result)) :
    t.cycles = s.cycles + 1 := by
  cases h
  exact (s.literalOp_delivers r).cycles

/-! ## Skips -/

/-- DECFSZ and INCFSZ complete only with a destination other than PCL (rule R29), so only a zero result costs a second
cycle. -/
theorem State.stepAndSkip_cycles {r : Byte} (h : s.stepAndSkip f d r = .next t) :
    t.cycles = s.cycles + if r = 0#8 then 2 else 1 := by
  obtain ⟨hdest, -⟩ := (s.stepAndSkip_eq_next t f d r).1 h
  have hpcl : s.dest f d ≠ some .pcl := by
    cases d with
    | w => exact nofun
    | file => simpa [State.dest] using hdest
  obtain ⟨u, hd, hu⟩ := State.stepAndSkip_delivers hpcl rfl (r := r) (p := r = 0#8) rfl
  cases h.symm.trans hu
  split
  · rfl
  · rw [hd.cycles, if_neg hpcl]

/-- A bit test takes a second cycle exactly when it skips. -/
theorem State.advance_skipIf_cycles (s : State) (c : Bool) :
    (s.advance.skipIf c).cycles = s.cycles + if c then 2 else 1 := by
  cases c <;> rfl

/-! ## Returns -/

/-- A pop into the program counter takes two cycles. -/
theorem State.popToPc_cycles (h : s.popToPc = .next t) : t.cycles = s.cycles + 2 := by
  obtain ⟨-, rfl⟩ := (s.popToPc_eq_next t).1 h
  rfl

end

end Sys2Proof.Machine

/-! The statement on the cycle counts (70_reset_and_hazards.md), settled. -/

namespace Sys2Proof.Proofs

open Sys2Proof Sys2Proof.Machine

/-- Settles O17, instruction by instruction, each group by the way it completes. -/
theorem cycleCountsFollowTheTable : Obligations.CycleCountsFollowTheTable := by
  unfold Obligations.CycleCountsFollowTheTable
  intro i s t h
  cases i with
  | addwf f d | andwf f d | comf f d | decf f d | incf f d | iorwf f d | movf f d | rlf f d | rrf f d | subwf f d
  | swapf f d | xorwf f d => exact cycles_of_byteOp h (by cases d <;> rfl)
  | clrf f | movwf f | bcf f b | bsf f b => exact cycles_of_byteOp (d := .file) h rfl
  | clrw | addlw k | andlw k | iorlw k | movlw k | sublw k | xorlw k => exact cycles_of_literalOp h
  | decfsz f d =>
    have hzero : s.memRead (s.ea f) - 1#8 = 0#8 ↔ s.memRead (s.ea f) = 0x01#8 := by bv_omega
    exact (State.stepAndSkip_cycles h).trans (by simp only [hzero])
  | incfsz f d =>
    have hzero : s.memRead (s.ea f) + 1#8 = 0#8 ↔ s.memRead (s.ea f) = 0xFF#8 := by bv_omega
    exact (State.stepAndSkip_cycles h).trans (by simp only [hzero])
  | btfsc f b =>
    cases h
    refine (s.advance_skipIf_cycles _).trans ?_
    dsimp only
    cases (s.memRead (s.ea f)).getLsbD b.toNat <;> rfl
  | btfss f b => cases h; exact s.advance_skipIf_cycles _
  | call k | goto k => cases h; rfl
  | ret => exact State.popToPc_cycles h
  | retlw k => exact State.popToPc_cycles (s := s.setW k) h
  | retfie => exact State.popToPc_cycles (s := s.setGie true) h
  | nop | clrwdt | option => cases h; rfl
  | sleep | tris f =>
    cases exec_cases h with
    | result _ _ hw => exact absurd rfl (hw rfl)
    | _ => rfl

end Sys2Proof.Proofs
